-- ==== Sys2Proof/Word.lean ====
section
/-! DEFINITION. The word types of the spec's notation (00_scope.md R9). Arithmetic on them is `BitVec`
arithmetic, which wraps at the type's own width as R10 says. -/

namespace Sys2Proof

/-- An unsigned 8-bit value (R9): A, B, X, FLAGS, a memory byte, an opcode. -/
abbrev Byte := BitVec 8

/-- An unsigned 16-bit value (R9): PC, SP, a memory address, the operand latch. -/
abbrev Addr := BitVec 16

/-- An unsigned 9-bit value (R9): the sum of the flag-arithmetic unit, carry included. -/
abbrev Word9 := BitVec 9

end Sys2Proof
end

