-- ==== Sys2Proof/Syntax.lean ====
section
/-! DEFINITION. The instructions: one constructor per row of spec/opcode_table.json (30_encoding.md R106, R108),
and the decode classes of R107. -/

namespace Sys2Proof

/-- The decode classes of 30_encoding.md R107. -/
inductive OpClass where
  | implied | immediate | absolute | indexed | undefined
  deriving DecidableEq, Repr

/-- An instruction with its operands. An instruction names its registers by its opcode alone
(10_state.md R33), so the only operands are an 8-bit immediate (R102) or a 16-bit address (R103, R104). -/
inductive Instr where
  /-- `NOP`, 0x00 (45_system.md R270). -/
  | nop
  /-- `LDA #imm`, 0x10 (42_load_store.md R190). -/
  | ldaImm (imm : Byte)
  /-- `LDB #imm`, 0x11 (R191). -/
  | ldbImm (imm : Byte)
  /-- `LDA abs`, 0x12 (R193). -/
  | ldaAbs (addr : Addr)
  /-- `STA abs`, 0x13 (R194). -/
  | staAbs (addr : Addr)
  /-- `ADD B`, 0x20 (44_alu.md R240). -/
  | addB
  /-- `SUB B`, 0x21 (R241). -/
  | subB
  /-- `AND B`, 0x22 (R242). -/
  | andB
  /-- `OR B`, 0x23 (R243). -/
  | orB
  /-- `XOR B`, 0x24 (R244). -/
  | xorB
  /-- `INC A`, 0x25 (R245). -/
  | incA
  /-- `DEC A`, 0x26 (R246). -/
  | decA
  /-- `JMP abs`, 0x30 (43_control.md R220). -/
  | jmpAbs (addr : Addr)
  /-- `JZ abs`, 0x31 (R221). -/
  | jzAbs (addr : Addr)
  /-- `JNZ abs`, 0x32 (R222). -/
  | jnzAbs (addr : Addr)
  /-- `LDX #imm`, 0x33 (42_load_store.md R192). -/
  | ldxImm (imm : Byte)
  /-- `LDA [abs+X]`, 0x34 (R195). -/
  | ldaIdx (addr : Addr)
  /-- `STA [abs+X]`, 0x35 (R196). -/
  | staIdx (addr : Addr)
  /-- `HLT`, 0xFF (45_system.md R271). -/
  | hlt
  /-- An undefined opcode byte, the fail-safe halt (R272). -/
  | undef (op : Byte)
  deriving DecidableEq, Repr

end Sys2Proof
end

