-- ==== Sys2Proof/WellFormed.lean ====
section
/-! DEFINITION. Which terms of `Instr` are instructions: every operand of a defined instruction is admitted
(30_encoding.md R102-R105), and `undef` carries one of the 237 undefined bytes of R108. -/

namespace Sys2Proof

/-- The undefined opcode bytes, as the four ranges of 30_encoding.md R108. -/
def isUndefinedByte (op : Byte) : Bool :=
  (decide (0x01 ≤ op.toNat) && decide (op.toNat ≤ 0x0F)) ||
  (decide (0x14 ≤ op.toNat) && decide (op.toNat ≤ 0x1F)) ||
  (decide (0x27 ≤ op.toNat) && decide (op.toNat ≤ 0x2F)) ||
  (decide (0x36 ≤ op.toNat) && decide (op.toNat ≤ 0xFE))

/-- The well-formedness check of an instruction. -/
def Instr.wf : Instr → Bool
  | .nop => true
  | .ldaImm _ => true
  | .ldbImm _ => true
  | .ldaAbs _ => true
  | .staAbs _ => true
  | .addB => true
  | .subB => true
  | .andB => true
  | .orB => true
  | .xorB => true
  | .incA => true
  | .decA => true
  | .jmpAbs _ => true
  | .jzAbs _ => true
  | .jnzAbs _ => true
  | .ldxImm _ => true
  | .ldaIdx _ => true
  | .staIdx _ => true
  | .hlt => true
  | .undef op => isUndefinedByte op

end Sys2Proof
end

