-- ==== Sys2Proof/Decode.lean ====
section
/-! DEFINITION. The opcode table, the decoder and the encoder (30_encoding.md R100-R111). Following R107, ONE
opcode-indexed table gives class and instruction, and the Decode micro-state, the Execute micro-state and the
byte decoder all consult it. -/

namespace Sys2Proof

/-- `v[7:0]` of a 16-bit value (00_scope.md R9). -/
def lowByte (v : Addr) : Byte := v.extractLsb' 0 8

/-- `v[15:8]` of a 16-bit value (R9). -/
def highByte (v : Addr) : Byte := v.extractLsb' 8 8

/-- `(hi << 8) | lo`, which "concatenates two bytes into an `Addr`" (R10, 30_encoding.md R103). -/
def concatBytes (hi lo : Byte) : Addr := hi ++ lo

/-- One row of the opcode map of R106: the opcode byte, its decode class (R107), and the instruction it selects from
the operand latch: `operand[7:0]` for an immediate, `operand` for an address
(40_microengine.md R136). -/
structure OpRow where
  opcode : Byte
  cls : OpClass
  build : Addr → Instr

/-- The complete opcode map of R106. -/
def opcodeTable : List OpRow :=
  [ ⟨0x00#8, .implied, fun _ => .nop⟩,
    ⟨0x10#8, .immediate, fun o => .ldaImm (lowByte o)⟩,
    ⟨0x11#8, .immediate, fun o => .ldbImm (lowByte o)⟩,
    ⟨0x12#8, .absolute, fun o => .ldaAbs o⟩,
    ⟨0x13#8, .absolute, fun o => .staAbs o⟩,
    ⟨0x20#8, .implied, fun _ => .addB⟩,
    ⟨0x21#8, .implied, fun _ => .subB⟩,
    ⟨0x22#8, .implied, fun _ => .andB⟩,
    ⟨0x23#8, .implied, fun _ => .orB⟩,
    ⟨0x24#8, .implied, fun _ => .xorB⟩,
    ⟨0x25#8, .implied, fun _ => .incA⟩,
    ⟨0x26#8, .implied, fun _ => .decA⟩,
    ⟨0x30#8, .absolute, fun o => .jmpAbs o⟩,
    ⟨0x31#8, .absolute, fun o => .jzAbs o⟩,
    ⟨0x32#8, .absolute, fun o => .jnzAbs o⟩,
    ⟨0x33#8, .immediate, fun o => .ldxImm (lowByte o)⟩,
    ⟨0x34#8, .indexed, fun o => .ldaIdx o⟩,
    ⟨0x35#8, .indexed, fun o => .staIdx o⟩,
    ⟨0xFF#8, .implied, fun _ => .hlt⟩ ]

/-- The row an opcode byte selects: "an exact match on all 8 bits" (R109). -/
def findRow (op : Byte) : Option OpRow := opcodeTable.find? (fun r => r.opcode == op)

/-- The decode class of an opcode byte (R107); a byte of no row is undefined (R108). -/
def classOf (op : Byte) : OpClass :=
  match findRow op with
  | some r => r.cls
  | none => .undefined

/-- The instruction of an opcode latch and an operand latch (40_microengine.md R136). -/
def instrOf (op : Byte) (operand : Addr) : Instr :=
  match findRow op with
  | some r => r.build operand
  | none => .undef op

/-- How many operand bytes a class has (R107). -/
def OpClass.operandBytes : OpClass → Nat
  | .implied => 0
  | .immediate => 1
  | .absolute => 2
  | .indexed => 2
  | .undefined => 0

/-- The instruction length, "a function of the opcode byte alone" (R100). -/
def opLength (op : Byte) : Nat := 1 + (classOf op).operandBytes

/-- Why a byte list is not an instruction. No byte VALUE is refused (R108); only bytes that are not there. -/
inductive DecodeError where
  /-- No opcode byte was given. -/
  | noBytes
  /-- An operand byte of this opcode is missing. -/
  | truncated (op : Byte)
  deriving DecidableEq, Repr

/-- The decoder: the instruction at the front of a byte list, and the bytes after it (R100-R108). The operand
bytes stand low byte first (R103). -/
def decode : List Byte → Except DecodeError (Instr × List Byte)
  | [] => .error .noBytes
  | op :: rest =>
    match (classOf op).operandBytes, rest with
    | 0, r => .ok (instrOf op 0#16, r)
    | 1, lo :: r => .ok (instrOf op (concatBytes 0#8 lo), r)
    | 2, lo :: hi :: r => .ok (instrOf op (concatBytes hi lo), r)
    | _, _ => .error (.truncated op)

/-- The opcode byte of an instruction (R106). -/
def Instr.opcode : Instr → Byte
  | .nop => 0x00#8
  | .ldaImm _ => 0x10#8
  | .ldbImm _ => 0x11#8
  | .ldaAbs _ => 0x12#8
  | .staAbs _ => 0x13#8
  | .addB => 0x20#8
  | .subB => 0x21#8
  | .andB => 0x22#8
  | .orB => 0x23#8
  | .xorB => 0x24#8
  | .incA => 0x25#8
  | .decA => 0x26#8
  | .jmpAbs _ => 0x30#8
  | .jzAbs _ => 0x31#8
  | .jnzAbs _ => 0x32#8
  | .ldxImm _ => 0x33#8
  | .ldaIdx _ => 0x34#8
  | .staIdx _ => 0x35#8
  | .hlt => 0xFF#8
  | .undef op => op

/-- The operand bytes of an instruction in memory order: nothing (R101), `imm8` (R102), or `addr_lo`, `addr_hi`
(R103, R104). -/
def Instr.operandBytes : Instr → List Byte
  | .nop => []
  | .ldaImm imm => [imm]
  | .ldbImm imm => [imm]
  | .ldaAbs addr => [lowByte addr, highByte addr]
  | .staAbs addr => [lowByte addr, highByte addr]
  | .addB => []
  | .subB => []
  | .andB => []
  | .orB => []
  | .xorB => []
  | .incA => []
  | .decA => []
  | .jmpAbs addr => [lowByte addr, highByte addr]
  | .jzAbs addr => [lowByte addr, highByte addr]
  | .jnzAbs addr => [lowByte addr, highByte addr]
  | .ldxImm imm => [imm]
  | .ldaIdx addr => [lowByte addr, highByte addr]
  | .staIdx addr => [lowByte addr, highByte addr]
  | .hlt => []
  | .undef _ => []

/-- The encoder: the bytes of an instruction, opcode first (R100-R104). -/
def encode (i : Instr) : List Byte := i.opcode :: i.operandBytes

/-- The bytes of a row of the opcode table whose bits are `w`, as the host numbers them: byte `k` is bits
`8k+7 .. 8k` of `w`, every bit from `nbits` up is 0, and the longest instruction has three bytes (R100). -/
def tableWordBytes (nbits w : Nat) : List Byte :=
  let v := w % 2 ^ nbits
  [BitVec.ofNat 8 v, BitVec.ofNat 8 (v / 256), BitVec.ofNat 8 (v / 65536)]

/-- The instruction the decoder reads from such a word. -/
def decodeTableWord (nbits w : Nat) : Option Instr :=
  match decode (tableWordBytes nbits w) with
  | .ok (i, _) => some i
  | .error _ => none

/-- One hexadecimal digit. -/
def hexDigit (n : Nat) : String :=
  ["0", "1", "2", "3", "4", "5", "6", "7", "8", "9", "A", "B", "C", "D", "E", "F"].getD n "?"

/-- `hh` of 30_encoding.md R110. -/
def hexByte (v : Byte) : String := hexDigit (v.toNat / 16) ++ hexDigit (v.toNat % 16)

/-- `hhhh` of R110. -/
def hexAddr (v : Addr) : String := hexByte (highByte v) ++ hexByte (lowByte v)

/-- The assembler spelling of R110: `#$hh` for an immediate, `$hhhh` for an address. R110 gives an undefined
byte no spelling. -/
def Instr.asm : Instr → Option String
  | .nop => some "NOP"
  | .ldaImm imm => some ("LDA #$" ++ hexByte imm)
  | .ldbImm imm => some ("LDB #$" ++ hexByte imm)
  | .ldaAbs addr => some ("LDA $" ++ hexAddr addr)
  | .staAbs addr => some ("STA $" ++ hexAddr addr)
  | .addB => some "ADD B"
  | .subB => some "SUB B"
  | .andB => some "AND B"
  | .orB => some "OR B"
  | .xorB => some "XOR B"
  | .incA => some "INC A"
  | .decA => some "DEC A"
  | .jmpAbs addr => some ("JMP $" ++ hexAddr addr)
  | .jzAbs addr => some ("JZ $" ++ hexAddr addr)
  | .jnzAbs addr => some ("JNZ $" ++ hexAddr addr)
  | .ldxImm imm => some ("LDX #$" ++ hexByte imm)
  | .ldaIdx addr => some ("LDA [$" ++ hexAddr addr ++ "+X]")
  | .staIdx addr => some ("STA [$" ++ hexAddr addr ++ "+X]")
  | .hlt => some "HLT"
  | .undef _ => none

end Sys2Proof
end

