-- ==== Sys2Proof/Machine/Flags.lean ====
section
/-! DEFINITION. FLAGS (10_state.md R36) and the flag-arithmetic unit (41_flag_unit.md). -/

namespace Sys2Proof.Machine

/-- Bit 0 of FLAGS, Carry (R36). -/
def flagC (f : Byte) : Bool := f.getLsbD 0

/-- Bit 1 of FLAGS, Zero (R36). -/
def flagZ (f : Byte) : Bool := f.getLsbD 1

/-- Bit 2 of FLAGS, Negative (R36). -/
def flagN (f : Byte) : Bool := f.getLsbD 2

/-- Bit 3 of FLAGS, Overflow (R36). -/
def flagV (f : Byte) : Bool := f.getLsbD 3

/-- Bits 7:4 of FLAGS, reserved (R37). -/
def flagsReserved (f : Byte) : BitVec 4 := f.extractLsb' 4 4

/-- "A flag update replaces only the named bits" (41_flag_unit.md R174). -/
def updateFlags (f mask new : Byte) : Byte := (f &&& ~~~mask) ||| (new &&& mask)

/-- A FLAGS byte of the four named bits, a boolean stored as 1 or 0 (00_scope.md R10). -/
def packFlags (c z n v : Bool) : Byte :=
  (if c then 0x01#8 else 0#8) ||| (if z then 0x02#8 else 0#8) |||
  (if n then 0x04#8 else 0#8) ||| (if v then 0x08#8 else 0#8)

/-- `FLAGS.Z` of a result: it is 0 (R170). -/
def zeroOf (v : Byte) : Bool := v == 0#8

/-- `FLAGS.N` of a result: its bit 7 (R170). -/
def negativeOf (v : Byte) : Bool := v.getLsbD 7

/-- `setZN(v)` (R170): the FLAGS after it, given those before. Mask 0x06 (R174). -/
def setZN (v f : Byte) : Byte := updateFlags f 0x06#8 (packFlags false (zeroOf v) (negativeOf v) false)

/-- The 9-bit sum of `add9` (R171). -/
def sum9 (a b : Byte) : Word9 := a.setWidth 9 + b.setWidth 9

/-- The 9-bit sum of `sub9` (R172); `~b` is the 8-bit complement (92_eei_decisions.md D14). -/
def diff9 (a b : Byte) : Word9 := a.setWidth 9 + (~~~b).setWidth 9 + 1#9

/-- `s[7:0]` (R171, R172). -/
def resultOf (s : Word9) : Byte := s.extractLsb' 0 8

/-- `s[8]`, the carry (R171, R172). -/
def carryOf (s : Word9) : Bool := s.getLsbD 8

/-- ADD's overflow (R171): "operands share a sign AND result sign differs from operand sign". -/
def addOverflow (a b r : Byte) : Bool := ((a ^^^ b) &&& 0x80#8) == 0#8 && ((a ^^^ r) &&& 0x80#8) != 0#8

/-- SUB's overflow (R172), "distinct from the ADD formula". -/
def subOverflow (a b r : Byte) : Bool := ((a ^^^ b) &&& 0x80#8) != 0#8 && ((a ^^^ r) &&& 0x80#8) != 0#8

/-- `add9(a, b)` (R171): the result byte and the FLAGS after it, given those before. Mask 0x0F (R174). -/
def add9 (a b f : Byte) : Byte × Byte :=
  let s := sum9 a b
  let r := resultOf s
  (r, updateFlags f 0x0F#8 (packFlags (carryOf s) (zeroOf r) (negativeOf r) (addOverflow a b r)))

/-- `sub9(a, b)` (R172): the result byte and the FLAGS after it, given those before. Mask 0x0F (R174). -/
def sub9 (a b f : Byte) : Byte × Byte :=
  let s := diff9 a b
  let r := resultOf s
  (r, updateFlags f 0x0F#8 (packFlags (carryOf s) (zeroOf r) (negativeOf r) (subOverflow a b r)))

end Sys2Proof.Machine
end

