-- ==== Sys2Proof/Config.lean ====
section
/-! DEFINITION. What the spec's parameter table (00_scope.md R8) fixes, and its one OPEN parameter. -/

namespace Sys2Proof.Config

/-- Memory size: "exactly 65536 bytes" (R8, 20_memory.md R70). -/
def memSize : Nat := 65536

/-- SP's reset value (10_state.md R35, R52). -/
def spReset : Addr := 0x01FF#16

/-- The `pc` argument taken for `State.reset`, which the host's interface wants as ONE state.
DESIGN CHOICE (log entry 3): the spec leaves the entry point to the caller of `reset(pc)` (R8); unsafe. -/
def entryPc : Addr := 0x0000#16

/-- The OPEN parameter `init_mem : Addr -> Byte` of 92_eei_decisions.md D9: the power-on contents of memory.
It is an argument of `State.powerOn`, never a constant. -/
abbrev InitMem := Addr → Byte

end Sys2Proof.Config
end

