-- ==== Sys2Proof/Machine/State.lean ====
section
/-! DEFINITION. The state of the core (10_state.md), the reasons a step can stop, and the state after reset. -/

namespace Sys2Proof.Machine

/-- The micro-states of 10_state.md R42. `memRead` and `memWrite` "are declared but never independently entered". -/
inductive MicroState where
  | fetchOp | decode | fetchOpLo | fetchOpHi | execute | writeBack | halted | memRead | memWrite
  deriving DecidableEq, Repr

/-- The direction of a recorded access (R45). -/
inductive Dir where
  | read | write
  deriving DecidableEq, Repr

/-- The annotation of a Bus Event: the tag of R45 (92_eei_decisions.md D5). No rule reads it. -/
inductive Note where
  | fetchOpcode | fetchOperandLo | fetchOperandHi | loadData | storeData
  deriving DecidableEq, Repr

/-- A Bus Event (R45): one recorded memory access of the engine. -/
structure BusEvent where
  /-- The value of `cycle` during the micro-step, before its increment. -/
  cycle : Nat
  /-- The micro-state the step started in. -/
  ustate : MicroState
  dir : Dir
  addr : Addr
  data : Byte
  note : Note
  deriving DecidableEq, Repr

/-- A Trace Frame (R46): the snapshot taken after a micro-step. -/
structure TraceFrame where
  /-- The cycle number of the step, before its increment. -/
  cycle : Nat
  pc : Addr
  a : Byte
  b : Byte
  x : Byte
  /-- `SP[7:0]`. -/
  spLo : Byte
  flags : Byte
  opcode : Byte
  /-- The micro-state after the step. -/
  ustate : MicroState
  events : List BusEvent
  deriving DecidableEq, Repr

/-- What an unlisted address holds. Any contents of the 65536 bytes has exactly one canonical list, so this is
only the representation's default; that `State.reset` lists nothing is log entry 4 (DESIGN CHOICE, unsafe). -/
def unlistedByte : Byte := 0x00#8

/-- The memory array `mem` (R39), as (address, byte) pairs. -/
abbrev Memory := List Host.Cell

/-- Every key of the list lies above `k`. -/
def Memory.above (k : Nat) : Memory → Bool
  | [] => true
  | (k', _) :: m => decide (k < k') && Memory.above k m

/-- The canonical form: addresses strictly rising and inside memory, and no entry equal to `unlistedByte`. -/
def Memory.wf : Memory → Bool
  | [] => true
  | (k, v) :: m => decide (k < Config.memSize) && (v != unlistedByte) && Memory.above k m && Memory.wf m

/-- Why a step stops with a fault. Neither marks a behaviour of the hardware (00_scope.md R14). -/
inductive Fault where
  /-- Raised by a step that finds `MemRead`, `MemWrite`, or `Halted` with `halted` false (40_microengine.md
  R138): unreachable from a reset. Safe: the model stops where the spec defines no transition. -/
  | unreachableMicroState (u : MicroState)
  /-- Raised by a step that finds a 1 in FLAGS bits 7:4 (93_implementation_defined.md row 3): unreachable from a
  reset. Safe. -/
  | reservedFlagBits
  deriving DecidableEq, Repr

/-- Why a step is refused. -/
inductive Refusal where
  /-- An instruction with no meaning in this model: raised by no arm of `exec`, all twenty have their meaning.
  Safe. -/
  | notModelled (mnemonic : String)
  /-- Raised by `step_cycle` and `step_instr` before the first `reset` (70_reset_and_hazards.md R331). Safe. -/
  | beforeReset
  deriving DecidableEq, Repr

/-- Everything the spec gives the core, and the model's one bit `resetDone`. -/
structure State where
  /-- The accumulator A (R30). -/
  a : Byte
  /-- The register B (R31). -/
  b : Byte
  /-- The index register X (R32). -/
  x : Byte
  /-- The program counter PC (R34). -/
  pc : Addr
  /-- The inert stack pointer SP (R35). -/
  sp : Addr
  /-- FLAGS: C, Z, N, V in bits 0-3, bits 7:4 reserved (R36). -/
  flags : Byte
  /-- The memory array (R39). -/
  mem : Memory
  /-- The opcode latch (R40). -/
  opcode : Byte
  /-- The operand latch (R41). -/
  operand : Addr
  /-- The micro-state (R42). -/
  ustate : MicroState
  /-- The halted flag (R43). -/
  halted : Bool
  /-- The cycle counter (R44), unbounded as in 92_eei_decisions.md D2. -/
  cycle : Nat
  /-- The Trace Timeline, oldest frame first (R47). -/
  timeline : List TraceFrame
  /-- The Bus Events of the current micro-step (R52, 40_microengine.md R131). -/
  events : List BusEvent
  /-- The MODEL's own bit, not the spec's: a `reset` has happened since power-on (70_reset_and_hazards.md R331).
  DESIGN CHOICE, log entry 6. -/
  resetDone : Bool
  deriving DecidableEq, Repr

/-- The machine right after `reset(Config.entryPc)` with nothing loaded (R52). PC's value and the empty memory
list are the model's (log entries 3 and 4, DESIGN CHOICE, unsafe), the latches' values the spec's decision D8 (log entry 5). -/
def State.reset : State :=
  { a := 0x00#8, b := 0x00#8, x := 0x00#8, pc := Config.entryPc, sp := Config.spReset, flags := 0x00#8,
    mem := [], opcode := 0x00#8, operand := 0x0000#16, ustate := .fetchOp, halted := false, cycle := 0,
    timeline := [], events := [], resetDone := true }

end Sys2Proof.Machine
end

