-- ==== Sys2Proof/Machine/Ops.lean ====
section
/-! DEFINITION. The named operations over memory and registers: the memory array, the recorder (20_memory.md R72,
R73), the results of an Execute micro-step, the halt (this core's only abnormal condition, 60_exceptions.md R300),
reset, and the Trace Frame. -/

namespace Sys2Proof.Machine

/-! ### The memory array -/

/-- The byte at key `k` of a memory list. -/
def Memory.lookup (k : Nat) : Memory → Byte
  | [] => unlistedByte
  | (k', v) :: m => if k' = k then v else Memory.lookup k m

/-- `mem[a]` (20_memory.md R72). An `Addr` is already reduced modulo 65536 (R71). -/
def Memory.read (m : Memory) (a : Addr) : Byte := Memory.lookup a.toNat m

/-- The list without the entries of key `k`. -/
def Memory.erase (k : Nat) : Memory → Memory
  | [] => []
  | (k', v) :: m => if k' = k then Memory.erase k m else (k', v) :: Memory.erase k m

/-- The list with one more entry, put before the first higher key. -/
def Memory.insert (k : Nat) (v : Byte) : Memory → Memory
  | [] => [(k, v)]
  | (k', v') :: m => if k < k' then (k, v) :: (k', v') :: m else (k', v') :: Memory.insert k v m

/-- The list that holds `v` at key `k`: writing what an unlisted address holds removes the entry. -/
def Memory.store (k : Nat) (v : Byte) (m : Memory) : Memory :=
  if v = unlistedByte then Memory.erase k m else Memory.insert k v (Memory.erase k m)

/-- `mem[a] <- v` (R73). -/
def Memory.write (m : Memory) (a : Addr) (v : Byte) : Memory := Memory.store a.toNat v m

/-- The bytes written one after the other from `a` up, the address wrapping as every engine address does. -/
def Memory.writeBytes (m : Memory) (a : Addr) : List Byte → Memory
  | [] => m
  | v :: vs => Memory.writeBytes (m.write a v) (a + 1#16) vs

/-- The bytes at `a`, `a + 1`, … `n` of them, the address wrapping (R77). -/
def Memory.readBytes (m : Memory) (a : Addr) : Nat → List Byte
  | 0 => []
  | n + 1 => m.read a :: Memory.readBytes m (a + 1#16) n

/-- The canonical list of the lowest `n` bytes of `init`. -/
def Memory.ofInitUpTo (init : Config.InitMem) : Nat → Memory
  | 0 => []
  | n + 1 =>
    let m := Memory.ofInitUpTo init n
    let v := init (BitVec.ofNat 16 n)
    if v = unlistedByte then m else m ++ [(n, v)]

/-- The memory whose contents are `init_mem` (10_state.md R39, 92_eei_decisions.md D9). -/
def Memory.ofInit (init : Config.InitMem) : Memory := Memory.ofInitUpTo init Config.memSize

/-! ### The engine's accesses and the Bus Event Recorder -/

/-- One Bus Event appended to the current step's list, tagged with the cycle number and the active micro-state
(20_memory.md R72, R73). -/
def State.record (s : State) (dir : Dir) (addr : Addr) (data : Byte) (note : Note) : State :=
  { s with events := s.events ++ [⟨s.cycle, s.ustate, dir, addr, data, note⟩] }

/-- `MemRead(addr, 1)` (R72): the byte, and the state with the access recorded. -/
def State.memRead (s : State) (addr : Addr) (note : Note) : Byte × State :=
  (s.mem.read addr, s.record .read addr (s.mem.read addr) note)

/-- `MemWrite(addr, 1, v)` (R73). -/
def State.memWrite (s : State) (addr : Addr) (v : Byte) (note : Note) : State :=
  { s.record .write addr v note with mem := s.mem.write addr v }

/-! ### What an Execute micro-step does -/

/-- The end of an Execute that does not halt: `ustate <- WriteBack` (40_microengine.md R136). -/
def State.endExecute (s : State) : State := { s with ustate := .writeBack }

/-- `A <- v; setZN(v)`. -/
def State.produceA (s : State) (v : Byte) : State := { s with a := v, flags := setZN v s.flags }

/-- `B <- v; setZN(v)`. -/
def State.produceB (s : State) (v : Byte) : State := { s with b := v, flags := setZN v s.flags }

/-- `X <- v; setZN(v)`. -/
def State.produceX (s : State) (v : Byte) : State := { s with x := v, flags := setZN v s.flags }

/-- `A` and the flags of a 9-bit computation (41_flag_unit.md R171, R172). -/
def State.produceArith (s : State) (r : Byte × Byte) : State := { s with a := r.1, flags := r.2 }

/-- `PC <- target` when the jump is taken, else PC as FetchOpHi left it (43_control.md R220-R222). -/
def State.jumpIf (s : State) (taken : Bool) (target : Addr) : State :=
  { s with pc := if taken then target else s.pc }

/-- The halt, the core's one response to an abnormal condition: `halted <- true; ustate <- Halted`
(60_exceptions.md R300, R304). Nothing is saved and no vector exists; only `State.resetAt` leaves it (R305). -/
def State.halt (s : State) : State := { s with halted := true, ustate := .halted }

/-! ### Reset and power-on -/

/-- `reset(pc)` (70_reset_and_hazards.md R330, 10_state.md R52): every element at its reset value, memory kept. -/
def State.resetAt (s : State) (pc : Addr) : State :=
  { a := 0x00#8, b := 0x00#8, x := 0x00#8, pc := pc, sp := Config.spReset, flags := 0x00#8, mem := s.mem,
    opcode := 0x00#8, operand := 0x0000#16, ustate := .fetchOp, halted := false, cycle := 0,
    timeline := [], events := [], resetDone := true }

/-- The core at power-on: memory holds `init_mem` (R39) and every other element is whatever `unspecified` says
(R53). -/
def State.powerOn (init : Config.InitMem) (unspecified : State) : State :=
  { unspecified with mem := Memory.ofInit init, resetDone := false }

/-! ### The Trace Frame -/

/-- `frame(c)` (40_microengine.md R139). -/
def State.frame (s : State) (c : Nat) : TraceFrame :=
  { cycle := c, pc := s.pc, a := s.a, b := s.b, x := s.x, spLo := s.sp.extractLsb' 0 8, flags := s.flags,
    opcode := s.opcode, ustate := s.ustate, events := s.events }

/-- The end of a micro-step: its frame is appended and `cycle` counts up (R139, R140). -/
def State.emitFrame (s : State) (c : Nat) : State :=
  { s with timeline := s.timeline ++ [s.frame c], cycle := s.cycle + 1 }

/-! ### Sequencing -/

/-- One operation after another: the second runs from the next state of the first. -/
def andThen (o : Host.Outcome State Fault Refusal) (k : State → Host.Outcome State Fault Refusal) :
    Host.Outcome State Fault Refusal :=
  match o with
  | .next s => k s
  | .fault r => .fault r
  | .refused r => .refused r

end Sys2Proof.Machine
end

