-- ==== Sys2Proof/Machine/Operands.lean ====
section
/-! DEFINITION. The operand forms (30_encoding.md R102-R105) and the fetch of one instruction byte
(10_state.md R34). -/

namespace Sys2Proof.Machine

/-- An immediate operand "is the byte `imm8` used as is, with no extension, scaling or shift" (R105). -/
def immediateValue (imm : Byte) : Byte := imm

/-- The address of an absolute operand (R103, R105). -/
def absoluteAddr (addr : Addr) : Addr := addr

/-- The effective address of an indexed operand, `(addr + zext_16(X)) mod 65536` (R104). -/
def indexedAddr (addr : Addr) (x : Byte) : Addr := addr + x.setWidth 16

/-- `MemRead(PC, 1)` and `PC <- PC + 1` (40_microengine.md R132, R134, R135): the byte and the state. -/
def State.fetchByte (s : State) (note : Note) : Byte × State :=
  let r := s.memRead s.pc note
  (r.1, { r.2 with pc := s.pc + 1#16 })

/-- `operand[7:0] <- d`, `operand[15:8]` unchanged (10_state.md R41, 40_microengine.md R134). -/
def setOperandLo (operand : Addr) (d : Byte) : Addr := concatBytes (highByte operand) d

/-- `operand[15:8] <- d`, `operand[7:0]` unchanged (R41, R135). -/
def setOperandHi (operand : Addr) (d : Byte) : Addr := concatBytes d (lowByte operand)

end Sys2Proof.Machine
end

