-- ==== Sys2Proof/Machine/Alu.lean ====
section
/-! DEFINITION. Arithmetic and logic: the Execute micro-step of each (44_alu.md). -/

namespace Sys2Proof.Machine

/-- `ADD B` (R240). -/
def execAddB (s : State) : Host.Outcome State Fault Refusal :=
  .next (s.produceArith (add9 s.a s.b s.flags)).endExecute

/-- `SUB B` (R241). -/
def execSubB (s : State) : Host.Outcome State Fault Refusal :=
  .next (s.produceArith (sub9 s.a s.b s.flags)).endExecute

/-- `AND B` (R242). -/
def execAndB (s : State) : Host.Outcome State Fault Refusal := .next (s.produceA (s.a &&& s.b)).endExecute

/-- `OR B` (R243). -/
def execOrB (s : State) : Host.Outcome State Fault Refusal := .next (s.produceA (s.a ||| s.b)).endExecute

/-- `XOR B` (R244). -/
def execXorB (s : State) : Host.Outcome State Fault Refusal := .next (s.produceA (s.a ^^^ s.b)).endExecute

/-- `INC A` (R245): C and V keep their values even on a wrap. -/
def execIncA (s : State) : Host.Outcome State Fault Refusal := .next (s.produceA (s.a + 1#8)).endExecute

/-- `DEC A` (R246): C and V keep their values even on a wrap. -/
def execDecA (s : State) : Host.Outcome State Fault Refusal := .next (s.produceA (s.a - 1#8)).endExecute

end Sys2Proof.Machine
end

