-- ==== Sys2Proof/Machine/Control.lean ====
section
/-! DEFINITION. Control transfer: the Execute micro-step of each jump (43_control.md). -/

namespace Sys2Proof.Machine

/-- `JMP abs` (R220). -/
def execJmpAbs (addr : Addr) (s : State) : Host.Outcome State Fault Refusal :=
  .next (s.jumpIf true (absoluteAddr addr)).endExecute

/-- `JZ abs` (R221). -/
def execJzAbs (addr : Addr) (s : State) : Host.Outcome State Fault Refusal :=
  .next (s.jumpIf (flagZ s.flags) (absoluteAddr addr)).endExecute

/-- `JNZ abs` (R222). -/
def execJnzAbs (addr : Addr) (s : State) : Host.Outcome State Fault Refusal :=
  .next (s.jumpIf (!flagZ s.flags) (absoluteAddr addr)).endExecute

end Sys2Proof.Machine
end

