-- ==== Sys2Proof/Machine/LoadStore.lean ====
section
/-! DEFINITION. Loads and stores: the Execute micro-step of each (42_load_store.md). -/

namespace Sys2Proof.Machine

/-- `LDA #imm` (R190). -/
def execLdaImm (imm : Byte) (s : State) : Host.Outcome State Fault Refusal :=
  .next (s.produceA (immediateValue imm)).endExecute

/-- `LDB #imm` (R191). -/
def execLdbImm (imm : Byte) (s : State) : Host.Outcome State Fault Refusal :=
  .next (s.produceB (immediateValue imm)).endExecute

/-- `LDX #imm` (R192). -/
def execLdxImm (imm : Byte) (s : State) : Host.Outcome State Fault Refusal :=
  .next (s.produceX (immediateValue imm)).endExecute

/-- `A <- MemRead(ea, 1)` with note LoadData, then `setZN`, for both addressing modes (R193, R195). -/
def State.loadA (s : State) (ea : Addr) : State :=
  let r := s.memRead ea .loadData
  r.2.produceA r.1

/-- `MemWrite(ea, 1, A)` with note StoreData, for both addressing modes (R194, R196). -/
def State.storeA (s : State) (ea : Addr) : State := s.memWrite ea s.a .storeData

/-- `LDA abs` (R193). -/
def execLdaAbs (addr : Addr) (s : State) : Host.Outcome State Fault Refusal :=
  .next (s.loadA (absoluteAddr addr)).endExecute

/-- `STA abs` (R194). -/
def execStaAbs (addr : Addr) (s : State) : Host.Outcome State Fault Refusal :=
  .next (s.storeA (absoluteAddr addr)).endExecute

/-- `LDA [abs+X]` (R195). -/
def execLdaIdx (addr : Addr) (s : State) : Host.Outcome State Fault Refusal :=
  .next (s.loadA (indexedAddr addr s.x)).endExecute

/-- `STA [abs+X]` (R196). -/
def execStaIdx (addr : Addr) (s : State) : Host.Outcome State Fault Refusal :=
  .next (s.storeA (indexedAddr addr s.x)).endExecute

end Sys2Proof.Machine
end

