-- ==== Sys2Proof/Machine/System.lean ====
section
/-! DEFINITION. NOP, HLT and the undefined opcodes: the Execute micro-step of each (45_system.md). -/

namespace Sys2Proof.Machine

/-- `NOP` (R270): "no effect; then `ustate <- WriteBack`". -/
def execNop (s : State) : Host.Outcome State Fault Refusal := .next s.endExecute

/-- `HLT` (R271). -/
def execHlt (s : State) : Host.Outcome State Fault Refusal := .next s.halt

/-- An undefined opcode, the fail-safe halt (R272): "exactly as HLT". The byte stays visible in the opcode latch
(92_eei_decisions.md D16). -/
def execUndef (_op : Byte) (s : State) : Host.Outcome State Fault Refusal := .next s.halt

end Sys2Proof.Machine
end

