-- ==== Sys2Proof/Machine/Dispatch.lean ====
section
/-! DEFINITION. What the Execute micro-step does for each instruction (40_microengine.md R136): one arm per
constructor, each one direct call of its meaning. -/

namespace Sys2Proof.Machine

/-- The Execute effect of an instruction. -/
def exec (i : Instr) (s : State) : Host.Outcome State Fault Refusal :=
  match i with
  | .nop => Sys2Proof.Machine.execNop s
  | .ldaImm imm => Sys2Proof.Machine.execLdaImm imm s
  | .ldbImm imm => Sys2Proof.Machine.execLdbImm imm s
  | .ldaAbs addr => Sys2Proof.Machine.execLdaAbs addr s
  | .staAbs addr => Sys2Proof.Machine.execStaAbs addr s
  | .addB => Sys2Proof.Machine.execAddB s
  | .subB => Sys2Proof.Machine.execSubB s
  | .andB => Sys2Proof.Machine.execAndB s
  | .orB => Sys2Proof.Machine.execOrB s
  | .xorB => Sys2Proof.Machine.execXorB s
  | .incA => Sys2Proof.Machine.execIncA s
  | .decA => Sys2Proof.Machine.execDecA s
  | .jmpAbs addr => Sys2Proof.Machine.execJmpAbs addr s
  | .jzAbs addr => Sys2Proof.Machine.execJzAbs addr s
  | .jnzAbs addr => Sys2Proof.Machine.execJnzAbs addr s
  | .ldxImm imm => Sys2Proof.Machine.execLdxImm imm s
  | .ldaIdx addr => Sys2Proof.Machine.execLdaIdx addr s
  | .staIdx addr => Sys2Proof.Machine.execStaIdx addr s
  | .hlt => Sys2Proof.Machine.execHlt s
  | .undef op => Sys2Proof.Machine.execUndef op s

end Sys2Proof.Machine
end

