-- ==== Sys2Proof/Machine/Engine.lean ====
section
/-! DEFINITION. The micro-state engine (40_microengine.md): the transition of each micro-state, `step_cycle`, and
the instruction-boundary helper `step_instr`. -/

namespace Sys2Proof.Machine

/-! ### The micro-states -/

/-- FetchOp (R132). -/
def microFetchOp (s : State) : State :=
  let r := s.fetchByte .fetchOpcode
  { r.2 with opcode := r.1, ustate := .decode }

/-- Decode (R133). -/
def microDecode (s : State) : State :=
  { s with ustate := match classOf s.opcode with
    | .immediate => .fetchOpLo
    | .absolute => .fetchOpLo
    | .indexed => .fetchOpLo
    | .implied => .execute
    | .undefined => .execute }

/-- FetchOpLo (R134). -/
def microFetchOpLo (s : State) : State :=
  let r := s.fetchByte .fetchOperandLo
  { r.2 with operand := setOperandLo s.operand r.1,
             ustate := if classOf s.opcode = .immediate then .execute else .fetchOpHi }

/-- FetchOpHi (R135). -/
def microFetchOpHi (s : State) : State :=
  let r := s.fetchByte .fetchOperandHi
  { r.2 with operand := setOperandHi s.operand r.1, ustate := .execute }

/-- Execute (R136): the effect of the latched instruction. -/
def microExecute (s : State) : Host.Outcome State Fault Refusal := exec (instrOf s.opcode s.operand) s

/-- WriteBack (R137): a "pure boundary state, no additional effect". -/
def microWriteBack (s : State) : State := { s with ustate := .fetchOp }

/-- One state-machine transition (R131). The three micro-states of R138 have none: a fault. -/
def transition (s : State) : Host.Outcome State Fault Refusal :=
  match s.ustate with
  | .fetchOp => .next (microFetchOp s)
  | .decode => .next (microDecode s)
  | .fetchOpLo => .next (microFetchOpLo s)
  | .fetchOpHi => .next (microFetchOpHi s)
  | .execute => microExecute s
  | .writeBack => .next (microWriteBack s)
  | .halted => .fault (.unreachableMicroState .halted)
  | .memRead => .fault (.unreachableMicroState .memRead)
  | .memWrite => .fault (.unreachableMicroState .memWrite)

/-! ### step_cycle -/

/-- `step_cycle()`: refused before the first reset (70_reset_and_hazards.md R331), nothing when halted (R130),
else one transition from an empty event list, its frame, and one count of `cycle` (R131, R139, R140). A 1 in the
reserved FLAGS bits is a fault (93_implementation_defined.md row 3). -/
def stepCycle (s : State) : Host.Outcome State Fault Refusal :=
  if s.resetDone = false then .refused .beforeReset
  else if s.halted = true then .next s
  else if flagsReserved s.flags ≠ 0#4 then .fault .reservedFlagBits
  else andThen (transition { s with events := [] }) fun t => .next (t.emitFrame s.cycle)

/-- `n` calls of `step_cycle`. -/
def cycles : Nat → State → Host.Outcome State Fault Refusal
  | 0, s => .next s
  | n + 1, s => andThen (stepCycle s) (cycles n)

/-! ### step_instr -/

/-- "The engine standing at micro-state `FetchOp` (or `Halted`)" (00_scope.md R15), as the loops of R142 test it. -/
def State.atBoundary (s : State) : Bool := decide (s.ustate = .fetchOp) || s.halted

/-- `repeat step_cycle() until ustate == FetchOp or halted` (R142), at least one step and at most `n`. -/
def toBoundary : Nat → State → Host.Outcome State Fault Refusal
  | 0, s => .next s
  | n + 1, s => andThen (stepCycle s) fun t => if t.atBoundary then .next t else toBoundary n t

/-- The longest drain: "up to 5 to drain a 3-byte instruction started at Decode" (R143). -/
def maxDrainCycles : Nat := 5

/-- The longest instruction: "up to 6 for a 3-byte instruction" (R143). -/
def maxInstrCycles : Nat := 6

/-- The drain phase of R142. -/
def drain (s : State) : Host.Outcome State Fault Refusal :=
  if s.ustate = .fetchOp then .next s else toBoundary maxDrainCycles s

/-- `step_instr()` (R142, R143): refused before the first reset (R331), nothing when halted, else drain, then one
whole instruction unless the drain halted. -/
def stepInstr (s : State) : Host.Outcome State Fault Refusal :=
  if s.resetDone = false then .refused .beforeReset
  else if s.halted = true then .next s
  else andThen (drain s) fun t => if t.halted = true then .next t else toBoundary maxInstrCycles t

end Sys2Proof.Machine
end

