-- ==== Sys2Proof/Machine/Step.lean ====
section
/-! DEFINITION. The host's one step, and the placing of an instruction where that step fetches it. -/

namespace Sys2Proof.Machine

/-- One step of the machine is one `step_instr` (40_microengine.md R142): from an instruction boundary, one whole
instruction, run as its micro-steps. `stepCycle` is the single micro-step. DESIGN CHOICE, log entry 1. -/
def step (s : State) : Host.Outcome State Fault Refusal := stepInstr s

/-- The host's instruction word stored at PC, the engine standing at the boundary where FetchOp reads it. Log
entry 2 says how a program comes to run without this. -/
def State.withFetchWord (s : State) (nbits w : Nat) : State :=
  { s with mem := s.mem.writeBytes s.pc (tableWordBytes nbits w), ustate := .fetchOp, halted := false,
           resetDone := true }

end Sys2Proof.Machine
end

