-- ==== Sys2Proof/Machine/Ports.lean ====
section
/-! DEFINITION. The core's host-facing operations (10_state.md R50, R51; 20_memory.md R86-R90): memory ports,
observation, and any schedule of requests. The host's power to call them in any order, between any two
`step_cycle` calls (R90), is a list of requests. -/

namespace Sys2Proof.Machine

/-- The result of `load_program` and `write16` (R86, R87). `AddressRangeExceeded` is "a result of a host operation,
not an exception of the engine" (60_exceptions.md R301). -/
inductive PortResult where
  | ok | addressRangeExceeded
  deriving DecidableEq, Repr

/-- `load_program(bytes, origin)` (R86): rejected whole when it would pass the end of memory. -/
def State.loadProgram (s : State) (bytes : List Byte) (origin : Addr) : PortResult × State :=
  if origin.toNat + bytes.length > Config.memSize then (.addressRangeExceeded, s)
  else (.ok, { s with mem := s.mem.writeBytes origin bytes })

/-- `write16(addr, value)` (R87): low byte first; rejected at 0xFFFF. -/
def State.write16 (s : State) (addr value : Addr) : PortResult × State :=
  if addr.toNat + 2 > Config.memSize then (.addressRangeExceeded, s)
  else (.ok, { s with mem := (s.mem.write addr (lowByte value)).write (addr + 1#16) (highByte value) })

/-- `poke(addr, v)` (R88), the debugger's "write a byte". -/
def State.poke (s : State) (addr : Addr) (v : Byte) : State := { s with mem := s.mem.write addr v }

/-- What the host may read (10_state.md R51). The latches are not in it. -/
structure Observation where
  a : Byte
  b : Byte
  x : Byte
  pc : Addr
  sp : Addr
  flags : Byte
  halted : Bool
  cycle : Nat
  ustate : MicroState
  mem : Memory
  timeline : List TraceFrame
  deriving DecidableEq, Repr

/-- The observation (R51). -/
def State.observe (s : State) : Observation :=
  { a := s.a, b := s.b, x := s.x, pc := s.pc, sp := s.sp, flags := s.flags, halted := s.halted, cycle := s.cycle,
    ustate := s.ustate, mem := s.mem, timeline := s.timeline }

/-- A request to the core: the operation set of 10_state.md R50. -/
inductive Request where
  | reset (pc : Addr)
  | stepCycle
  | stepInstr
  | loadProgram (bytes : List Byte) (origin : Addr)
  | write16 (addr value : Addr)
  | poke (addr : Addr) (v : Byte)
  | observe
  deriving DecidableEq, Repr

/-- What a request answers (R50). -/
inductive Reply where
  | none
  | port (r : PortResult)
  | observed (o : Observation)
  deriving DecidableEq, Repr

/-- The reply `none` beside the next state. -/
def silently (o : Host.Outcome State Fault Refusal) : Host.Outcome (State × Reply) Fault Refusal :=
  match o with
  | .next s => .next (s, .none)
  | .fault r => .fault r
  | .refused r => .refused r

/-- One request, complete before the next begins (R49, R90). Only the two stepping requests can fault or be
refused. -/
def serve (q : Request) (s : State) : Host.Outcome (State × Reply) Fault Refusal :=
  match q with
  | .reset pc => .next (s.resetAt pc, .none)
  | .stepCycle => silently (Sys2Proof.Machine.stepCycle s)
  | .stepInstr => silently (Sys2Proof.Machine.stepInstr s)
  | .loadProgram bytes origin => .next ((s.loadProgram bytes origin).2, .port (s.loadProgram bytes origin).1)
  | .write16 addr value => .next ((s.write16 addr value).2, .port (s.write16 addr value).1)
  | .poke addr v => .next (s.poke addr v, .none)
  | .observe => .next (s, .observed s.observe)

/-- A schedule of requests, one after the other (R90). -/
def serveAll : List Request → State → Host.Outcome State Fault Refusal
  | [], s => .next s
  | q :: qs, s =>
    match serve q s with
    | .next (t, _) => serveAll qs t
    | .fault r => .fault r
    | .refused r => .refused r

end Sys2Proof.Machine
end

