-- ==== Sys2Proof/Safety.lean ====
section
/-! DEFINITION. The terms the statements use: a core that is stepping, an instruction that stands at PC, the
invariants of 10_state.md R48, and what a reachable state is. -/

namespace Sys2Proof.Machine

/-- A core that `step_cycle` advances: reset, not halted, the reserved FLAGS bits 0 (R37). -/
abbrev State.running (s : State) : Prop :=
  s.resetDone = true ∧ s.halted = false ∧ flagsReserved s.flags = 0#4

/-- A running core at an instruction boundary (00_scope.md R15). -/
abbrev State.ready (s : State) : Prop := s.running ∧ s.ustate = .fetchOp

/-- These bytes stand at PC, the address wrapping (20_memory.md R77). -/
abbrev State.holds (s : State) (bytes : List Byte) : Prop := s.mem.readBytes s.pc bytes.length = bytes

/-- What no Execute changes: SP, the latches, `cycle`, the timeline and the model's reset bit. -/
abbrev State.sameEngine (s t : State) : Prop :=
  t.sp = s.sp ∧ t.opcode = s.opcode ∧ t.operand = s.operand ∧ t.cycle = s.cycle ∧ t.timeline = s.timeline ∧
    t.resetDone = s.resetDone

/-- Every address reads the same in both states. -/
abbrev State.sameMemory (s t : State) : Prop := ∀ addr : Addr, t.mem.read addr = s.mem.read addr

/-- An opcode byte whose Execute halts: HLT or an undefined byte (40_microengine.md R136). -/
abbrev haltingOpcode (op : Byte) : Prop := op = 0xFF#8 ∨ isUndefinedByte op = true

/-- The invariants (a) to (e) of 10_state.md R48. -/
structure SpecInv (s : State) : Prop where
  timeline_length : s.timeline.length = s.cycle
  halted_iff : s.halted = true ↔ s.ustate = .halted
  flags_reserved : flagsReserved s.flags = 0#4
  ustate_entered : s.ustate ≠ .memRead ∧ s.ustate ≠ .memWrite
  frames_numbered : ∀ (k : Nat) (f : TraceFrame), s.timeline[k]? = some f → f.cycle = k

/-- The invariant of the model: R48, SP inert at its reset value (R35), memory in its canonical form, at most one
Bus Event in the current step and in each frame, there made in the frame's own cycle (40_microengine.md R145, R131),
and a reset has happened. -/
structure CoreInv (s : State) : Prop extends SpecInv s where
  sp_inert : s.sp = Config.spReset
  mem_wf : s.mem.wf = true
  one_event : s.events.length ≤ 1
  frame_events : ∀ f ∈ s.timeline, f.events.length ≤ 1 ∧ ∀ e ∈ f.events, e.cycle = f.cycle
  reset_done : s.resetDone = true

/-- A state that some schedule of requests reaches after some reset of some power-on (10_state.md R48, R53). -/
def Reachable (t : State) : Prop :=
  ∃ (init : Config.InitMem) (unspecified : State) (before : List Request) (pc : Addr) (after : List Request)
    (s : State), serveAll before (State.powerOn init unspecified) = .next s ∧
    serveAll (.reset pc :: after) s = .next t

end Sys2Proof.Machine
end

