-- ==== Sys2Proof/Certificates/Slice0/Obligations.lean ====
section
/-! DEFINITION. The statements for the provers. Each docstring names the rule of spec/ a statement formalises and,
where a clause rests on a decision or an inference the spec marks as its own, that decision. -/

open Sys2Proof Sys2Proof.Machine

/-! ### Encoding -/

/-- R100-R108: the decoder reads back every well-formed instruction, and leaves the bytes after it alone. -/
def Obligations.DecodeOfEncodeIsIdentity : Prop :=
  ∀ (i : Instr) (rest : List Byte), i.wf = true → decode (encode i ++ rest) = .ok (i, rest)

/-- R100-R109: what the decoder reads is well-formed and its encoding is exactly the bytes consumed, so two
different byte sequences never mean the same instruction. -/
def Obligations.DecodedBytesAreTheEncoding : Prop :=
  ∀ (bytes rest : List Byte) (i : Instr), decode bytes = .ok (i, rest) → i.wf = true ∧ encode i ++ rest = bytes

/-- R100, R107, R108: the opcode byte alone fixes class and length; an implied or undefined opcode has length 1,
an immediate 2, an absolute or indexed 3; the undefined bytes are the four ranges of R108, 237 of them; and the
decoder succeeds exactly when the bytes of that length are there. -/
def Obligations.OpcodeByteFixesClassAndLength : Prop :=
  (∀ op : Byte,
    (classOf op = .immediate ↔ op = 0x10#8 ∨ op = 0x11#8 ∨ op = 0x33#8) ∧
    (classOf op = .absolute ↔ op = 0x12#8 ∨ op = 0x13#8 ∨ op = 0x30#8 ∨ op = 0x31#8 ∨ op = 0x32#8) ∧
    (classOf op = .indexed ↔ op = 0x34#8 ∨ op = 0x35#8) ∧
    (classOf op = .undefined ↔ isUndefinedByte op = true)) ∧
  ((List.range 256).filter (fun n => isUndefinedByte (BitVec.ofNat 8 n))).length = 237 ∧
  (∀ op : Byte, opLength op = match classOf op with
    | .implied => 1 | .immediate => 2 | .absolute => 3 | .indexed => 3 | .undefined => 1) ∧
  (∀ (op : Byte) (bytes : List Byte),
    (∃ i rest, decode (op :: bytes) = .ok (i, rest) ∧ rest.length + opLength op = bytes.length + 1) ↔
      opLength op ≤ bytes.length + 1)

/-- R106: one word of every format, written out bit by bit from the opcode map, decodes to its instruction. -/
def Obligations.SampleWordsDecodeAsTheMapSays : Prop :=
  decode [0b00000000#8] = .ok (.nop, []) ∧
  decode [0b00010000#8, 0b00000101#8] = .ok (.ldaImm 0x05#8, []) ∧
  decode [0b00010011#8, 0b00110100#8, 0b00010010#8] = .ok (.staAbs 0x1234#16, []) ∧
  decode [0b00100001#8] = .ok (.subB, []) ∧
  decode [0b00110010#8, 0b00000010#8, 0b00000000#8] = .ok (.jnzAbs 0x0002#16, []) ∧
  decode [0b00110101#8, 0b11111000#8, 0b11111111#8] = .ok (.staIdx 0xFFF8#16, []) ∧
  decode [0b11111111#8] = .ok (.hlt, []) ∧
  decode [0b10011001#8] = .ok (.undef 0x99#8, [])

/-! ### The flag-arithmetic unit -/

/-- R170: `setZN` writes Z and N from the value, and keeps every other bit of FLAGS; and every instruction that writes
A, B or X leaves Z and N as its result says. -/
def Obligations.SetZNWritesZeroAndNegativeOnly : Prop :=
  (∀ (v f : Byte),
    (flagZ (setZN v f) = true ↔ v = 0#8) ∧ (flagN (setZN v f) = true ↔ 0x80 ≤ v.toNat) ∧
    (∀ k : Nat, k ≠ 1 → k ≠ 2 → (setZN v f).getLsbD k = f.getLsbD k)) ∧
  (∀ (imm : Byte) (addr : Addr) (i : Instr) (s t : State), exec i s = .next t →
    (i ∈ [.ldaImm imm, .ldaAbs addr, .ldaIdx addr, .addB, .subB, .andB, .orB, .xorB, .incA, .decA] →
      (flagZ t.flags = true ↔ t.a = 0#8) ∧ (flagN t.flags = true ↔ 0x80 ≤ t.a.toNat)) ∧
    (i = .ldbImm imm → (flagZ t.flags = true ↔ t.b = 0#8) ∧ (flagN t.flags = true ↔ 0x80 ≤ t.b.toNat)) ∧
    (i = .ldxImm imm → (flagZ t.flags = true ↔ t.x = 0#8) ∧ (flagN t.flags = true ↔ 0x80 ≤ t.x.toNat)))

/-- R171: `add9` computes the 9-bit sum; C is its bit 8, Z and N come from the result, V is set exactly when the
operands share a sign and the result's differs; the reserved bits are kept. -/
def Obligations.AddNineComputesSumAndFlags : Prop :=
  ∀ (a b f : Byte),
    (add9 a b f).1.toNat = (a.toNat + b.toNat) % 256 ∧
    (flagC (add9 a b f).2 = true ↔ 256 ≤ a.toNat + b.toNat) ∧
    (flagZ (add9 a b f).2 = true ↔ (add9 a b f).1 = 0#8) ∧
    flagN (add9 a b f).2 = (add9 a b f).1.getLsbD 7 ∧
    (flagV (add9 a b f).2 = true ↔ a.getLsbD 7 = b.getLsbD 7 ∧ (add9 a b f).1.getLsbD 7 ≠ a.getLsbD 7) ∧
    flagsReserved (add9 a b f).2 = flagsReserved f

/-- R172 and R247, with the spec's reading D14 of `~B` (derived): `sub9` computes `a - b` modulo 256, C is "no
borrow", V for ADD and SUB is the signed overflow, Z and N come from the result, the reserved bits are kept. -/
def Obligations.SubNineAndSignedOverflow : Prop :=
  ∀ (a b f : Byte),
    ((sub9 a b f).1.toNat : Int) = ((a.toNat : Int) - b.toNat) % 256 ∧
    (flagC (sub9 a b f).2 = true ↔ b.toNat ≤ a.toNat) ∧
    (flagZ (sub9 a b f).2 = true ↔ a = b) ∧
    flagN (sub9 a b f).2 = (sub9 a b f).1.getLsbD 7 ∧
    (flagV (sub9 a b f).2 = true ↔ a.toInt - b.toInt < -128 ∨ 127 < a.toInt - b.toInt) ∧
    flagsReserved (sub9 a b f).2 = flagsReserved f ∧
    (flagV (add9 a b f).2 = true ↔ a.toInt + b.toInt < -128 ∨ 127 < a.toInt + b.toInt)

/-- R173 with R174 (derived there): whatever the instruction, C and V change only by ADD and SUB; NOP, the stores,
the jumps, HLT and the undefined opcodes write no flag; bits 7:4 are never written. -/
def Obligations.FlagsPreservedOutsideTheirWriters : Prop :=
  ∀ (i : Instr) (s t : State), exec i s = .next t →
    flagsReserved t.flags = flagsReserved s.flags ∧
    (i ≠ .addB → i ≠ .subB → flagC t.flags = flagC s.flags ∧ flagV t.flags = flagV s.flags) ∧
    ((i = .nop ∨ i = .hlt ∨ (∃ op, i = .undef op) ∨ (∃ addr, i = .staAbs addr ∨ i = .staIdx addr ∨
      i = .jmpAbs addr ∨ i = .jzAbs addr ∨ i = .jnzAbs addr)) → t.flags = s.flags)

/-! ### The instructions: decoding, the Execute effect, and a whole step from a boundary -/

/-- R190, R191, R192: `LDA #imm`, `LDB #imm` and `LDX #imm`: encoding, Execute effect (no memory access, Z and N
from the value), and the instruction run from a boundary in 5 cycles, nothing else changed; LDX alone writes X. -/
def Obligations.LoadImmediateRules : Prop :=
  (∀ (imm : Byte) (rest : List Byte), decode (0x10#8 :: imm :: rest) = .ok (.ldaImm imm, rest) ∧
    decode (0x11#8 :: imm :: rest) = .ok (.ldbImm imm, rest) ∧
    decode (0x33#8 :: imm :: rest) = .ok (.ldxImm imm, rest)) ∧
  (∀ (imm : Byte) (s : State),
    exec (.ldaImm imm) s = .next { s with a := imm, flags := setZN imm s.flags, ustate := .writeBack } ∧
    exec (.ldbImm imm) s = .next { s with b := imm, flags := setZN imm s.flags, ustate := .writeBack } ∧
    exec (.ldxImm imm) s = .next { s with x := imm, flags := setZN imm s.flags, ustate := .writeBack }) ∧
  (∀ (imm : Byte) (s : State), s.ready → s.holds [0x10#8, imm] → ∃ t, step s = .next t ∧
    t.observe = { s.observe with
      a := imm, flags := setZN imm s.flags, pc := s.pc + 2#16, cycle := s.cycle + 5, timeline := t.timeline }) ∧
  (∀ (imm : Byte) (s : State), s.ready → s.holds [0x11#8, imm] → ∃ t, step s = .next t ∧
    t.observe = { s.observe with
      b := imm, flags := setZN imm s.flags, pc := s.pc + 2#16, cycle := s.cycle + 5, timeline := t.timeline }) ∧
  (∀ (imm : Byte) (s : State), s.ready → s.holds [0x33#8, imm] → ∃ t, step s = .next t ∧
    t.observe = { s.observe with
      x := imm, flags := setZN imm s.flags, pc := s.pc + 2#16, cycle := s.cycle + 5, timeline := t.timeline }) ∧
  (∀ (i : Instr) (s t : State), exec i s = .next t → t.x ≠ s.x → ∃ imm, i = .ldxImm imm)

/-- R193, R195: `LDA abs` and `LDA [abs+X]`: encoding, Execute effect with exactly one Read event at the operand's
address (for the indexed form `(addr + X) mod 65536`), and the instruction run from a boundary in 6 cycles. -/
def Obligations.LoadMemoryRules : Prop :=
  (∀ (lo hi : Byte) (rest : List Byte), decode (0x12#8 :: lo :: hi :: rest) = .ok (.ldaAbs (hi ++ lo), rest) ∧
    decode (0x34#8 :: lo :: hi :: rest) = .ok (.ldaIdx (hi ++ lo), rest)) ∧
  (∀ (addr : Addr) (x : Byte), (indexedAddr addr x).toNat = (addr.toNat + x.toNat) % 65536) ∧
  (∀ (addr : Addr) (s : State),
    exec (.ldaAbs addr) s = .next { s with
      a := s.mem.read addr, flags := setZN (s.mem.read addr) s.flags, ustate := .writeBack,
      events := s.events ++ [⟨s.cycle, s.ustate, .read, addr, s.mem.read addr, .loadData⟩] } ∧
    exec (.ldaIdx addr) s = .next { s with
      a := s.mem.read (indexedAddr addr s.x), flags := setZN (s.mem.read (indexedAddr addr s.x)) s.flags,
      ustate := .writeBack,
      events := s.events ++
        [⟨s.cycle, s.ustate, .read, indexedAddr addr s.x, s.mem.read (indexedAddr addr s.x), .loadData⟩] }) ∧
  (∀ (lo hi : Byte) (s : State), s.ready → s.holds [0x12#8, lo, hi] → ∃ t, step s = .next t ∧
    t.observe = { s.observe with
      a := s.mem.read (hi ++ lo), flags := setZN (s.mem.read (hi ++ lo)) s.flags, pc := s.pc + 3#16,
      cycle := s.cycle + 6, timeline := t.timeline }) ∧
  (∀ (lo hi : Byte) (s : State), s.ready → s.holds [0x34#8, lo, hi] → ∃ t, step s = .next t ∧
    t.observe = { s.observe with
      a := s.mem.read (indexedAddr (hi ++ lo) s.x),
      flags := setZN (s.mem.read (indexedAddr (hi ++ lo) s.x)) s.flags, pc := s.pc + 3#16,
      cycle := s.cycle + 6, timeline := t.timeline })

/-- R194, R196: `STA abs` and `STA [abs+X]`: encoding, Execute effect (one byte stored, exactly one Write event,
no flag), the instruction run from a boundary in 6 cycles, and a later instruction fetched from the stored byte. -/
def Obligations.StoreRules : Prop :=
  (∀ (lo hi : Byte) (rest : List Byte), decode (0x13#8 :: lo :: hi :: rest) = .ok (.staAbs (hi ++ lo), rest) ∧
    decode (0x35#8 :: lo :: hi :: rest) = .ok (.staIdx (hi ++ lo), rest)) ∧
  (∀ (addr : Addr) (x : Byte), (indexedAddr addr x).toNat = (addr.toNat + x.toNat) % 65536) ∧
  (∀ (addr : Addr) (s : State),
    exec (.staAbs addr) s = .next { s with
      mem := s.mem.write addr s.a, ustate := .writeBack,
      events := s.events ++ [⟨s.cycle, s.ustate, .write, addr, s.a, .storeData⟩] } ∧
    exec (.staIdx addr) s = .next { s with
      mem := s.mem.write (indexedAddr addr s.x) s.a, ustate := .writeBack,
      events := s.events ++ [⟨s.cycle, s.ustate, .write, indexedAddr addr s.x, s.a, .storeData⟩] }) ∧
  (∀ (lo hi : Byte) (s : State), s.ready → s.holds [0x13#8, lo, hi] → ∃ t, step s = .next t ∧
    t.observe = { s.observe with
      mem := s.mem.write (hi ++ lo) s.a, pc := s.pc + 3#16, cycle := s.cycle + 6, timeline := t.timeline } ∧
    t.mem.read (hi ++ lo) = s.a) ∧
  (∀ (lo hi : Byte) (s : State), s.ready → s.holds [0x35#8, lo, hi] → ∃ t, step s = .next t ∧
    t.observe = { s.observe with
      mem := s.mem.write (indexedAddr (hi ++ lo) s.x) s.a, pc := s.pc + 3#16, cycle := s.cycle + 6,
      timeline := t.timeline } ∧
    t.mem.read (indexedAddr (hi ++ lo) s.x) = s.a) ∧
  (∀ (addr : Addr) (s t u : State), exec (.staAbs addr) s = .next t → u.mem = t.mem → u.pc = addr → u.ready →
    ∃ w, stepCycle u = .next w ∧ w.opcode = s.a)

/-- R240: `ADD B`: encoding, `A <- add9(A, B)` with all four flags, and the instruction run in 4 cycles. -/
def Obligations.AddRule : Prop :=
  (∀ rest : List Byte, decode (0x20#8 :: rest) = .ok (.addB, rest)) ∧
  (∀ s : State, exec .addB s = .next { s with
    a := (add9 s.a s.b s.flags).1, flags := (add9 s.a s.b s.flags).2, ustate := .writeBack }) ∧
  (∀ s : State, s.ready → s.holds [0x20#8] → ∃ t, step s = .next t ∧
    t.observe = { s.observe with
      a := s.a + s.b, flags := (add9 s.a s.b s.flags).2, pc := s.pc + 1#16, cycle := s.cycle + 4,
      timeline := t.timeline })

/-- R241 (its carry by the spec's reading D14, derived): `SUB B`: encoding, `A <- sub9(A, B)`, that is `A - B`
modulo 256, with all four flags, and the instruction run in 4 cycles. -/
def Obligations.SubRule : Prop :=
  (∀ rest : List Byte, decode (0x21#8 :: rest) = .ok (.subB, rest)) ∧
  (∀ s : State, exec .subB s = .next { s with
    a := (sub9 s.a s.b s.flags).1, flags := (sub9 s.a s.b s.flags).2, ustate := .writeBack }) ∧
  (∀ s : State, s.ready → s.holds [0x21#8] → ∃ t, step s = .next t ∧
    t.observe = { s.observe with
      a := s.a - s.b, flags := (sub9 s.a s.b s.flags).2, pc := s.pc + 1#16, cycle := s.cycle + 4,
      timeline := t.timeline })

/-- R242, R243, R244: `AND B`, `OR B` and `XOR B`: encoding, Execute effect (Z and N from the result), and the
instruction run in 4 cycles. -/
def Obligations.LogicRules : Prop :=
  (∀ rest : List Byte, decode (0x22#8 :: rest) = .ok (.andB, rest) ∧ decode (0x23#8 :: rest) = .ok (.orB, rest) ∧
    decode (0x24#8 :: rest) = .ok (.xorB, rest)) ∧
  (∀ s : State,
    exec .andB s = .next { s with a := s.a &&& s.b, flags := setZN (s.a &&& s.b) s.flags, ustate := .writeBack } ∧
    exec .orB s = .next { s with a := s.a ||| s.b, flags := setZN (s.a ||| s.b) s.flags, ustate := .writeBack } ∧
    exec .xorB s =
      .next { s with a := s.a ^^^ s.b, flags := setZN (s.a ^^^ s.b) s.flags, ustate := .writeBack }) ∧
  (∀ s : State, s.ready → s.holds [0x22#8] → ∃ t, step s = .next t ∧
    t.observe = { s.observe with
      a := s.a &&& s.b, flags := setZN (s.a &&& s.b) s.flags, pc := s.pc + 1#16, cycle := s.cycle + 4,
      timeline := t.timeline }) ∧
  (∀ s : State, s.ready → s.holds [0x23#8] → ∃ t, step s = .next t ∧
    t.observe = { s.observe with
      a := s.a ||| s.b, flags := setZN (s.a ||| s.b) s.flags, pc := s.pc + 1#16, cycle := s.cycle + 4,
      timeline := t.timeline }) ∧
  (∀ s : State, s.ready → s.holds [0x24#8] → ∃ t, step s = .next t ∧
    t.observe = { s.observe with
      a := s.a ^^^ s.b, flags := setZN (s.a ^^^ s.b) s.flags, pc := s.pc + 1#16, cycle := s.cycle + 4,
      timeline := t.timeline })

/-- R245, R246: `INC A` and `DEC A`: encoding, Execute effect modulo 256 (Z and N from the result, C and V kept
even on a wrap), and the instruction run in 4 cycles. -/
def Obligations.IncrementDecrementRules : Prop :=
  (∀ rest : List Byte, decode (0x25#8 :: rest) = .ok (.incA, rest) ∧
    decode (0x26#8 :: rest) = .ok (.decA, rest)) ∧
  (∀ s : State, ∃ t u : State, exec .incA s = .next t ∧ exec .decA s = .next u ∧
    t = { s with a := t.a, flags := setZN t.a s.flags, ustate := .writeBack } ∧
    u = { s with a := u.a, flags := setZN u.a s.flags, ustate := .writeBack } ∧
    t.a.toNat = (s.a.toNat + 1) % 256 ∧ (u.a.toNat : Int) = ((s.a.toNat : Int) - 1) % 256 ∧
    flagC t.flags = flagC s.flags ∧ flagV t.flags = flagV s.flags ∧
    flagC u.flags = flagC s.flags ∧ flagV u.flags = flagV s.flags) ∧
  (∀ s : State, s.ready → s.holds [0x25#8] → ∃ t, step s = .next t ∧
    t.observe = { s.observe with
      a := s.a + 1#8, flags := setZN (s.a + 1#8) s.flags, pc := s.pc + 1#16, cycle := s.cycle + 4,
      timeline := t.timeline }) ∧
  (∀ s : State, s.ready → s.holds [0x26#8] → ∃ t, step s = .next t ∧
    t.observe = { s.observe with
      a := s.a - 1#8, flags := setZN (s.a - 1#8) s.flags, pc := s.pc + 1#16, cycle := s.cycle + 4,
      timeline := t.timeline })

/-- R220, R221, R222: `JMP abs`, `JZ abs` and `JNZ abs`: encoding, Execute effect (PC replaced always, if Z, if
not Z; no flag, no memory access), and the jump run in 6 cycles, taken or not. -/
def Obligations.JumpRules : Prop :=
  (∀ (lo hi : Byte) (rest : List Byte), decode (0x30#8 :: lo :: hi :: rest) = .ok (.jmpAbs (hi ++ lo), rest) ∧
    decode (0x31#8 :: lo :: hi :: rest) = .ok (.jzAbs (hi ++ lo), rest) ∧
    decode (0x32#8 :: lo :: hi :: rest) = .ok (.jnzAbs (hi ++ lo), rest)) ∧
  (∀ (addr : Addr) (s : State),
    exec (.jmpAbs addr) s = .next { s with pc := addr, ustate := .writeBack } ∧
    exec (.jzAbs addr) s =
      .next { s with pc := if s.flags.getLsbD 1 = true then addr else s.pc, ustate := .writeBack } ∧
    exec (.jnzAbs addr) s =
      .next { s with pc := if s.flags.getLsbD 1 = false then addr else s.pc, ustate := .writeBack }) ∧
  (∀ (lo hi : Byte) (s : State), s.ready → s.holds [0x30#8, lo, hi] → ∃ t, step s = .next t ∧
    t.observe = { s.observe with pc := hi ++ lo, cycle := s.cycle + 6, timeline := t.timeline }) ∧
  (∀ (lo hi : Byte) (s : State), s.ready → s.holds [0x31#8, lo, hi] → ∃ t, step s = .next t ∧
    t.observe = { s.observe with
      pc := if s.flags.getLsbD 1 = true then hi ++ lo else s.pc + 3#16, cycle := s.cycle + 6,
      timeline := t.timeline }) ∧
  (∀ (lo hi : Byte) (s : State), s.ready → s.holds [0x32#8, lo, hi] → ∃ t, step s = .next t ∧
    t.observe = { s.observe with
      pc := if s.flags.getLsbD 1 = false then hi ++ lo else s.pc + 3#16, cycle := s.cycle + 6,
      timeline := t.timeline })

/-- R270: `NOP`: encoding, no effect but `ustate <- WriteBack`, and the instruction run in 4 cycles and 4 frames,
PC wrapping at 0xFFFF. -/
def Obligations.NopRule : Prop :=
  (∀ rest : List Byte, decode (0x00#8 :: rest) = .ok (.nop, rest)) ∧
  (∀ s : State, exec .nop s = .next { s with ustate := .writeBack }) ∧
  (∀ s : State, s.ready → s.holds [0x00#8] → ∃ t, step s = .next t ∧
    t.observe = { s.observe with pc := s.pc + 1#16, cycle := s.cycle + 4, timeline := t.timeline } ∧
    t.timeline.length = s.timeline.length + 4)

/-- R271: `HLT`: encoding, Execute effect, the instruction run in 3 cycles and 3 frames, the last with Halted, PC
after the HLT byte, and every later step doing nothing. -/
def Obligations.HltRule : Prop :=
  (∀ rest : List Byte, decode (0xFF#8 :: rest) = .ok (.hlt, rest)) ∧
  (∀ s : State, exec .hlt s = .next { s with halted := true, ustate := .halted }) ∧
  (∀ s : State, s.ready → s.holds [0xFF#8] → ∃ t, step s = .next t ∧
    t.observe = { s.observe with
      pc := s.pc + 1#16, halted := true, ustate := .halted, cycle := s.cycle + 3, timeline := t.timeline } ∧
    t.timeline.length = s.timeline.length + 3 ∧ (t.timeline.getLast?.map TraceFrame.ustate) = some .halted ∧
    stepCycle t = .next t ∧ step t = .next t)

/-- R272 (no extra signal, the spec's decision D16, derived): every undefined byte decodes with no operand and
halts exactly as HLT does, in 3 cycles; the opcode latch and the last frame hold the byte. -/
def Obligations.UndefinedOpcodeRule : Prop :=
  (∀ (op : Byte) (rest : List Byte), isUndefinedByte op = true → decode (op :: rest) = .ok (.undef op, rest)) ∧
  (∀ (op : Byte) (s : State), exec (.undef op) s = .next { s with halted := true, ustate := .halted }) ∧
  (∀ (op : Byte) (s : State), isUndefinedByte op = true → s.ready → s.holds [op] → ∃ t, step s = .next t ∧
    t.observe = { s.observe with
      pc := s.pc + 1#16, halted := true, ustate := .halted, cycle := s.cycle + 3, timeline := t.timeline } ∧
    t.opcode = op ∧ (t.timeline.getLast?.map TraceFrame.opcode) = some op)

/-! ### Frames -/

/-- The frame of the ALU instructions (R240-R246): only A, FLAGS and the micro-state may change. -/
def Obligations.AluFrame : Prop :=
  ∀ (i : Instr) (s t : State), i ∈ [.addB, .subB, .andB, .orB, .xorB, .incA, .decA] → exec i s = .next t →
    t.b = s.b ∧ t.x = s.x ∧ t.pc = s.pc ∧ t.halted = s.halted ∧ t.events = s.events ∧ State.sameEngine s t ∧
    State.sameMemory s t ∧ flagsReserved t.flags = flagsReserved s.flags ∧
    (i ∉ [.addB, .subB] → flagC t.flags = flagC s.flags ∧ flagV t.flags = flagV s.flags)

/-- The frame of the loads (R190-R193, R195): only the destination register, Z, N, the micro-state and, for the
two that read memory, the event list may change. -/
def Obligations.LoadFrame : Prop :=
  ∀ (imm : Byte) (addr : Addr) (i : Instr) (s t : State),
    i ∈ [.ldaImm imm, .ldbImm imm, .ldxImm imm, .ldaAbs addr, .ldaIdx addr] → exec i s = .next t →
    (i ≠ .ldbImm imm → t.b = s.b) ∧ (i ≠ .ldxImm imm → t.x = s.x) ∧
    (i = .ldbImm imm ∨ i = .ldxImm imm → t.a = s.a) ∧
    (i ≠ .ldaAbs addr → i ≠ .ldaIdx addr → t.events = s.events) ∧
    t.pc = s.pc ∧ t.halted = s.halted ∧ State.sameEngine s t ∧ State.sameMemory s t ∧
    flagC t.flags = flagC s.flags ∧ flagV t.flags = flagV s.flags ∧ flagsReserved t.flags = flagsReserved s.flags

/-- The frame of the stores (R194, R196): no register and no flag changes, and every byte but the one at the
store's address reads as before; that one reads A. The address is the operand form's own. -/
def Obligations.StoreFrame : Prop :=
  ∀ (addr : Addr) (s t : State),
    (exec (.staAbs addr) s = .next t → t.mem.read (absoluteAddr addr) = s.a ∧
      ∀ other : Addr, other ≠ absoluteAddr addr → t.mem.read other = s.mem.read other) ∧
    (exec (.staIdx addr) s = .next t → t.mem.read (indexedAddr addr s.x) = s.a ∧
      ∀ other : Addr, other ≠ indexedAddr addr s.x → t.mem.read other = s.mem.read other) ∧
    (exec (.staAbs addr) s = .next t ∨ exec (.staIdx addr) s = .next t →
      t.a = s.a ∧ t.b = s.b ∧ t.x = s.x ∧ t.pc = s.pc ∧ t.flags = s.flags ∧ t.halted = s.halted ∧
      State.sameEngine s t)

/-- The frame of the jumps, NOP, HLT and the undefined opcodes (R220-R222, R270-R272): no register, flag, byte of
memory or Bus Event changes; only a jump may change PC, only a halting opcode the halted flag. -/
def Obligations.ControlAndSystemFrame : Prop :=
  ∀ (addr : Addr) (op : Byte) (i : Instr) (s t : State),
    i ∈ [.jmpAbs addr, .jzAbs addr, .jnzAbs addr, .nop, .hlt, .undef op] → exec i s = .next t →
    t.a = s.a ∧ t.b = s.b ∧ t.x = s.x ∧ t.flags = s.flags ∧ t.events = s.events ∧ State.sameEngine s t ∧
    State.sameMemory s t ∧ (i ∈ [.nop, .hlt, .undef op] → t.pc = s.pc) ∧
    (i ∉ [.hlt, .undef op] → t.halted = s.halted)

/-- R30-R35, R39, R43, over all instructions: each register, memory and the halted flag are changed only by the
instructions the spec names as their writers, and SP by none. -/
def Obligations.OnlyNamedWritersChangeState : Prop :=
  ∀ (i : Instr) (s t : State), exec i s = .next t →
    t.sp = s.sp ∧
    (t.a ≠ s.a → (∃ imm, i = .ldaImm imm) ∨ (∃ addr, i = .ldaAbs addr ∨ i = .ldaIdx addr) ∨
      i ∈ [.addB, .subB, .andB, .orB, .xorB, .incA, .decA]) ∧
    (t.b ≠ s.b → ∃ imm, i = .ldbImm imm) ∧
    (t.x ≠ s.x → ∃ imm, i = .ldxImm imm) ∧
    (t.pc ≠ s.pc → ∃ addr, i = .jmpAbs addr ∨ i = .jzAbs addr ∨ i = .jnzAbs addr) ∧
    (t.mem ≠ s.mem → ∃ addr, i = .staAbs addr ∨ i = .staIdx addr) ∧
    (t.halted ≠ s.halted → i = .hlt ∨ ∃ op, i = .undef op)

/-! ### The micro-state engine -/

/-- R132: FetchOp reads one byte at PC with one Read event at the old PC, latches it, and goes to Decode. -/
def Obligations.FetchOpTransition : Prop :=
  ∀ s : State, s.ustate = .fetchOp → transition s = .next { s with
    opcode := s.mem.read s.pc, pc := s.pc + 1#16, ustate := .decode,
    events := s.events ++ [⟨s.cycle, .fetchOp, .read, s.pc, s.mem.read s.pc, .fetchOpcode⟩] }

/-- R133: Decode goes to FetchOpLo for an immediate, absolute or indexed opcode, else to Execute, and writes
nothing but the micro-state. R137: WriteBack goes to FetchOp and does nothing else. -/
def Obligations.DecodeAndWriteBackTransitions : Prop :=
  (∀ s : State, s.ustate = .decode → ∃ t, transition s = .next t ∧ t = { s with ustate := t.ustate } ∧
    t.ustate = if s.opcode ∈ [0x10#8, 0x11#8, 0x33#8, 0x12#8, 0x13#8, 0x30#8, 0x31#8, 0x32#8, 0x34#8, 0x35#8]
      then .fetchOpLo else .execute) ∧
  (∀ s : State, s.ustate = .writeBack → transition s = .next { s with ustate := .fetchOp })

/-- R134, R135: FetchOpLo and FetchOpHi read one byte at PC with one Read event and put it into their half of the
operand latch, keeping the other half. -/
def Obligations.OperandFetchTransitions : Prop :=
  (∀ s : State, s.ustate = .fetchOpLo → ∃ t, transition s = .next t ∧
    t = { s with
      operand := t.operand, pc := s.pc + 1#16, ustate := t.ustate,
      events := s.events ++ [⟨s.cycle, .fetchOpLo, .read, s.pc, s.mem.read s.pc, .fetchOperandLo⟩] } ∧
    t.operand.extractLsb' 0 8 = s.mem.read s.pc ∧ t.operand.extractLsb' 8 8 = s.operand.extractLsb' 8 8 ∧
    t.ustate = if s.opcode ∈ [0x10#8, 0x11#8, 0x33#8] then .execute else .fetchOpHi) ∧
  (∀ s : State, s.ustate = .fetchOpHi → ∃ t, transition s = .next t ∧
    t = { s with
      operand := t.operand, pc := s.pc + 1#16, ustate := .execute,
      events := s.events ++ [⟨s.cycle, .fetchOpHi, .read, s.pc, s.mem.read s.pc, .fetchOperandHi⟩] } ∧
    t.operand.extractLsb' 0 8 = s.operand.extractLsb' 0 8 ∧ t.operand.extractLsb' 8 8 = s.mem.read s.pc)

/-- R136: Execute performs the latched opcode's instruction, its immediate being `operand[7:0]` and its address
`operand`; HLT and every undefined opcode set `halted` and go to Halted, every other opcode goes to WriteBack with
`halted` as it was; and it makes one Read (0x12, 0x34), one Write (0x13, 0x35), else no access. -/
def Obligations.ExecuteTransition : Prop :=
  (∀ o : Addr,
    instrOf 0x00#8 o = .nop ∧ instrOf 0x10#8 o = .ldaImm (o.extractLsb' 0 8) ∧
    instrOf 0x11#8 o = .ldbImm (o.extractLsb' 0 8) ∧ instrOf 0x33#8 o = .ldxImm (o.extractLsb' 0 8) ∧
    instrOf 0x12#8 o = .ldaAbs o ∧ instrOf 0x13#8 o = .staAbs o ∧ instrOf 0x34#8 o = .ldaIdx o ∧
    instrOf 0x35#8 o = .staIdx o ∧ instrOf 0x20#8 o = .addB ∧ instrOf 0x21#8 o = .subB ∧
    instrOf 0x22#8 o = .andB ∧ instrOf 0x23#8 o = .orB ∧ instrOf 0x24#8 o = .xorB ∧ instrOf 0x25#8 o = .incA ∧
    instrOf 0x26#8 o = .decA ∧ instrOf 0x30#8 o = .jmpAbs o ∧ instrOf 0x31#8 o = .jzAbs o ∧
    instrOf 0x32#8 o = .jnzAbs o ∧ instrOf 0xFF#8 o = .hlt ∧
    (∀ op : Byte, isUndefinedByte op = true → instrOf op o = .undef op)) ∧
  (∀ s : State, s.ustate = .execute →
    ∃ t, transition s = .next t ∧ exec (instrOf s.opcode s.operand) s = .next t ∧
      (haltingOpcode s.opcode → t.halted = true ∧ t.ustate = .halted) ∧
      (¬ haltingOpcode s.opcode → t.halted = s.halted ∧ t.ustate = .writeBack) ∧
      (s.opcode = 0x12#8 ∨ s.opcode = 0x34#8 → ∃ e, t.events = s.events ++ [e] ∧ e.dir = .read) ∧
      (s.opcode = 0x13#8 ∨ s.opcode = 0x35#8 → ∃ e, t.events = s.events ++ [e] ∧ e.dir = .write) ∧
      (s.opcode ∉ [0x12#8, 0x34#8, 0x13#8, 0x35#8] → t.events = s.events))

/-- R131, R139, R140 (the frame's number by the spec's decision D4, derived): a step of a running core is one
transition from an empty event list; it appends exactly one frame, the snapshot of the state after it, numbered
with the old cycle; and `cycle` counts up by one. -/
def Obligations.StepCycleAppendsOneFrame : Prop :=
  ∀ s t : State, s.running → stepCycle s = .next t →
    ∃ u, transition { s with events := [] } = .next u ∧ t.timeline = s.timeline ++ [
      { cycle := s.cycle, pc := t.pc, a := t.a, b := t.b, x := t.x, spLo := BitVec.ofNat 8 t.sp.toNat,
        flags := t.flags, opcode := t.opcode, ustate := t.ustate, events := t.events }] ∧
    t.cycle = s.cycle + 1 ∧ t = { u with timeline := t.timeline, cycle := t.cycle }

/-- R130: `step_cycle` when halted is a no-op: it changes nothing at all. -/
def Obligations.HaltedStepCycleDoesNothing : Prop :=
  ∀ s : State, s.resetDone = true → s.halted = true → stepCycle s = .next s

/-- R138 and 93_implementation_defined.md row 3 (the spec's decisions D7, D18, derived): where a step stops. It
faults exactly in the three unreachable micro-states and on a reserved FLAGS bit, and is refused exactly before
the first reset. -/
def Obligations.StepCycleStopsExactlyWhenUnreachable : Prop :=
  ∀ s : State,
    (s.resetDone = false ↔ stepCycle s = .refused .beforeReset) ∧
    (s.resetDone = false → step s = .refused .beforeReset) ∧
    (s.resetDone = true → s.halted = false → flagsReserved s.flags ≠ 0#4 →
      stepCycle s = .fault .reservedFlagBits) ∧
    (s.running → s.ustate = .halted ∨ s.ustate = .memRead ∨ s.ustate = .memWrite →
      stepCycle s = .fault (.unreachableMicroState s.ustate)) ∧
    (s.running → s.ustate ≠ .halted → s.ustate ≠ .memRead → s.ustate ≠ .memWrite → ∃ t, stepCycle s = .next t)

/-- R141: a micro-step outside Execute never changes A, B, X, FLAGS or memory; only a fetch state and a jump's
Execute change PC; none changes SP. -/
def Obligations.MicroStepFrame : Prop :=
  ∀ s t : State, stepCycle s = .next t →
    t.sp = s.sp ∧
    (s.ustate ≠ .execute →
      t.a = s.a ∧ t.b = s.b ∧ t.x = s.x ∧ t.flags = s.flags ∧ State.sameMemory s t) ∧
    (t.pc ≠ s.pc → s.ustate = .fetchOp ∨ s.ustate = .fetchOpLo ∨ s.ustate = .fetchOpHi ∨
      (s.ustate = .execute ∧ s.opcode ∈ [0x30#8, 0x31#8, 0x32#8]))

/-- R145 with R193-R196 (derived there): the Bus Events of one micro-step, by micro-state and opcode; never more
than one. -/
def Obligations.BusEventsOfEachMicroStep : Prop :=
  ∀ s t : State, s.running → stepCycle s = .next t →
    t.events = match s.ustate with
      | .fetchOp => [⟨s.cycle, .fetchOp, .read, s.pc, s.mem.read s.pc, .fetchOpcode⟩]
      | .fetchOpLo => [⟨s.cycle, .fetchOpLo, .read, s.pc, s.mem.read s.pc, .fetchOperandLo⟩]
      | .fetchOpHi => [⟨s.cycle, .fetchOpHi, .read, s.pc, s.mem.read s.pc, .fetchOperandHi⟩]
      | .execute =>
        if s.opcode = 0x12#8 then [⟨s.cycle, .execute, .read, s.operand, s.mem.read s.operand, .loadData⟩]
        else if s.opcode = 0x34#8 then
          [⟨s.cycle, .execute, .read, indexedAddr s.operand s.x, s.mem.read (indexedAddr s.operand s.x), .loadData⟩]
        else if s.opcode = 0x13#8 then [⟨s.cycle, .execute, .write, s.operand, s.a, .storeData⟩]
        else if s.opcode = 0x35#8 then
          [⟨s.cycle, .execute, .write, indexedAddr s.operand s.x, s.a, .storeData⟩]
        else []
      | _ => []

/-! ### The whole step -/

/-- R131-R136, R142 (its halted exit the spec's decision D6, derived): from a boundary, a step fetches the bytes at
PC in its first micro-steps, changing only PC, the latches and the trace; its Execute is `exec` of the instruction
the decoder reads from those bytes; and unless that halts, one WriteBack micro-step ends it. -/
def Obligations.StepRunsTheDecodedInstruction : Prop :=
  ∀ (s : State) (i : Instr) (rest : List Byte), s.ready → decode (s.mem.readBytes s.pc 3) = .ok (i, rest) →
    ∃ e : State, cycles (opLength (s.mem.read s.pc) + 1) s = .next e ∧
      e.observe = { s.observe with
        pc := s.pc + BitVec.ofNat 16 (opLength (s.mem.read s.pc)), ustate := .execute,
        cycle := s.cycle + (opLength (s.mem.read s.pc) + 1), timeline := e.timeline } ∧
      e.opcode = s.mem.read s.pc ∧ instrOf e.opcode e.operand = i ∧
      step s = andThen (exec i { e with events := [] }) fun t =>
        if t.halted = true then .next (t.emitFrame e.cycle) else stepCycle (t.emitFrame e.cycle)

/-- The host's interface (derived from R103 and R132): an instruction word placed where step fetches is what the
decoder reads there, and the core stands ready to run it. -/
def Obligations.FetchWordIsWhatStepDecodes : Prop :=
  ∀ (s : State) (nbits w : Nat) (i : Instr), flagsReserved s.flags = 0#4 → decodeTableWord nbits w = some i →
    (s.withFetchWord nbits w).ready ∧ ∃ rest,
      decode ((s.withFetchWord nbits w).mem.readBytes (s.withFetchWord nbits w).pc 3) = .ok (i, rest)

/-- R142 (its halted exit the spec's decision D6, derived): a step always leaves the engine in FetchOp or halted,
"never any intermediate state". -/
def Obligations.StepEndsAtAnInstructionBoundary : Prop :=
  ∀ s t : State, step s = .next t → t.ustate = .fetchOp ∨ t.halted = true

/-- R142, R143, R337 (the halted exit is the spec's decision D6, derived): called in the middle of an instruction,
a step finishes it in at most five micro-steps, none of which but the last ends at a boundary, and then runs one
whole instruction more, unless the drain halted. -/
def Obligations.MidInstructionStepDrainsThenRunsOne : Prop :=
  ∀ s : State, s.running → s.ustate ∈ [.decode, .fetchOpLo, .fetchOpHi, .execute, .writeBack] →
    ∃ (k : Nat) (m : State), 1 ≤ k ∧ k ≤ 5 ∧ cycles k s = .next m ∧ m.atBoundary = true ∧
      (∀ j t, 1 ≤ j → j < k → cycles j s = .next t → t.atBoundary = false) ∧ step s = step m

/-- R144, R338 (derived there): from a boundary the instruction passes through exactly the micro-states of its
class, one cycle and one frame each: 4 implied, 5 immediate, 6 absolute or indexed, 3 for HLT and undefined. -/
def Obligations.MicroStateSequenceOfEachClass : Prop :=
  ∀ s : State, s.ready → ∃ (t : State) (frames : List TraceFrame), step s = .next t ∧
    t.timeline = s.timeline ++ frames ∧ t.cycle = s.cycle + frames.length ∧
    frames.map TraceFrame.ustate =
      if haltingOpcode (s.mem.read s.pc) then [.decode, .execute, .halted]
      else match classOf (s.mem.read s.pc) with
        | .immediate => [.decode, .fetchOpLo, .execute, .writeBack, .fetchOp]
        | .absolute => [.decode, .fetchOpLo, .fetchOpHi, .execute, .writeBack, .fetchOp]
        | .indexed => [.decode, .fetchOpLo, .fetchOpHi, .execute, .writeBack, .fetchOp]
        | _ => [.decode, .execute, .writeBack, .fetchOp]

/-- R47, R44, R140: the timeline is append-only under stepping, `cycle` never decreases, and the two grow by the
same number. -/
def Obligations.TimelineIsAppendOnly : Prop :=
  ∀ s t : State, step s = .next t →
    ∃ frames : List TraceFrame, t.timeline = s.timeline ++ frames ∧ t.cycle = s.cycle + frames.length

/-! ### Memory, host ports and reset -/

/-- The canonical form of the model's memory list: two canonical memories that read the same everywhere are equal
data (derived from R39, R70: memory is exactly its 65536 bytes). -/
def Obligations.CanonicalMemoriesThatReadAlikeAreEqual : Prop :=
  ∀ m n : Memory, m.wf = true → n.wf = true → (∀ addr : Addr, m.read addr = n.read addr) → m = n

/-- R39, R53 with the spec's OPEN parameter D9 (derived): any `init_mem` is a power-on memory of the model, in
canonical form, and reset keeps it. -/
def Obligations.AnyInitialMemoryIsModelled : Prop :=
  ∀ (init : Config.InitMem) (unspecified : State) (pc addr : Addr),
    (State.powerOn init unspecified).mem.wf = true ∧ (State.powerOn init unspecified).mem.read addr = init addr ∧
    ((State.powerOn init unspecified).resetAt pc).mem.read addr = init addr

/-- R72, R73: every engine access appends exactly one Bus Event with its direction, address, data, the active
micro-state and the cycle; a read changes nothing else, a write exactly its byte. -/
def Obligations.EngineAccessesAreRecordedOnce : Prop :=
  (∀ (s : State) (addr : Addr) (note : Note), s.memRead addr note = (s.mem.read addr,
    { s with events := s.events ++ [⟨s.cycle, s.ustate, .read, addr, s.mem.read addr, note⟩] })) ∧
  (∀ (s : State) (addr : Addr) (v : Byte) (note : Note),
    (s.memWrite addr v note).events = s.events ++ [⟨s.cycle, s.ustate, .write, addr, v, note⟩] ∧
    s.memWrite addr v note =
      { s with mem := (s.memWrite addr v note).mem, events := (s.memWrite addr v note).events } ∧
    ∀ other : Addr, (s.memWrite addr v note).mem.read other = if other = addr then v else s.mem.read other)

/-- R86, R87, R89 (rejection all-or-nothing, its form, and the absence of a record are the spec's decisions D10,
D11, D12, derived): `load_program` and `write16` reject exactly a range past the end of memory, changing nothing;
else they write exactly their bytes, low byte first, and touch nothing but memory. -/
def Obligations.RangePortsWriteExactlyOrReject : Prop :=
  (∀ (s : State) (bytes : List Byte) (origin : Addr), 65536 < origin.toNat + bytes.length →
    s.loadProgram bytes origin = (.addressRangeExceeded, s)) ∧
  (∀ (s : State) (bytes : List Byte) (origin : Addr), origin.toNat + bytes.length ≤ 65536 →
    ∃ t, s.loadProgram bytes origin = (.ok, t) ∧ t = { s with mem := t.mem } ∧
      (∀ (k : Nat) (v : Byte), bytes[k]? = some v → t.mem.read (origin + BitVec.ofNat 16 k) = v) ∧
      (∀ addr : Addr, addr.toNat < origin.toNat ∨ origin.toNat + bytes.length ≤ addr.toNat →
        t.mem.read addr = s.mem.read addr)) ∧
  (∀ (s : State) (value : Addr), s.write16 0xFFFF#16 value = (.addressRangeExceeded, s)) ∧
  (∀ (s : State) (addr value : Addr), addr ≠ 0xFFFF#16 →
    ∃ t, s.write16 addr value = (.ok, t) ∧ t = { s with mem := t.mem } ∧
      t.mem.read addr = BitVec.ofNat 8 value.toNat ∧
      t.mem.read (addr + 1#16) = BitVec.ofNat 8 (value.toNat / 256) ∧
      (∀ other : Addr, other ≠ addr → other ≠ addr + 1#16 → t.mem.read other = s.mem.read other))

/-- R88: `poke` writes its one byte, cannot fail, is not recorded and does not advance `cycle`. -/
def Obligations.PokeWritesOneByteUnrecorded : Prop :=
  ∀ (s : State) (addr : Addr) (v : Byte), ∃ t, serve (.poke addr v) s = .next (t, .none) ∧
    t = { s with mem := t.mem } ∧
    ∀ other : Addr, t.mem.read other = if other = addr then v else s.mem.read other

/-- R330, R52, R332, R333 (latch values, and reset at any time, are the spec's decisions D8, D17, derived): reset
sets every element but memory, whatever the state before, so what power-on left unspecified is never seen after
it; and loading before or after reset is the same. -/
def Obligations.ResetSetsEverythingButMemory : Prop :=
  (∀ (s : State) (pc : Addr), ∃ t, serve (.reset pc) s = .next (t, .none) ∧
    t.a = 0x00#8 ∧ t.b = 0x00#8 ∧ t.x = 0x00#8 ∧ t.flags = 0x00#8 ∧ t.sp = 0x01FF#16 ∧ t.pc = pc ∧
    t.halted = false ∧ t.cycle = 0 ∧ t.ustate = .fetchOp ∧ t.timeline = [] ∧ t.events = [] ∧
    t.opcode = 0x00#8 ∧ t.operand = 0x0000#16 ∧ t.mem = s.mem) ∧
  (∀ (init : Config.InitMem) (u v : State) (pc : Addr) (qs : List Request),
    serveAll (.reset pc :: qs) (State.powerOn init u) = serveAll (.reset pc :: qs) (State.powerOn init v)) ∧
  (∀ (s : State) (pc origin : Addr) (bytes : List Byte),
    serveAll [.reset pc, .loadProgram bytes origin] s = serveAll [.loadProgram bytes origin, .reset pc] s)

/-- R84, R335 (derived there): a fetch sees what either store put at PC, be it the opcode or an operand byte. -/
def Obligations.FetchSeesTheStoredByte : Prop :=
  ∀ (i : Instr) (addr base : Addr) (s t u : State),
    i = .staAbs addr ∨ (i = .staIdx base ∧ addr = indexedAddr base s.x) → exec i s = .next t →
    u.mem = t.mem → u.pc = addr → u.running → u.ustate ∈ [.fetchOp, .fetchOpLo, .fetchOpHi] →
    ∃ w, stepCycle u = .next w ∧ (u.ustate = .fetchOp → w.opcode = s.a) ∧
      (u.ustate = .fetchOpLo → w.operand.extractLsb' 0 8 = s.a) ∧
      (u.ustate = .fetchOpHi → w.operand.extractLsb' 8 8 = s.a)

/-- R84, R336 (derived there): a host write between two micro-steps of an instruction does not reach what was
already fetched: a micro-step that reads no memory goes exactly as it would have, memory apart. -/
def Obligations.HostWriteDoesNotReachTheLatches : Prop :=
  ∀ (s t : State) (addr : Addr) (v : Byte), stepCycle s = .next t →
    s.ustate ≠ .fetchOp → s.ustate ≠ .fetchOpLo → s.ustate ≠ .fetchOpHi →
    (s.ustate = .execute → s.opcode ≠ 0x12#8 ∧ s.opcode ≠ 0x34#8) →
    ∃ u, stepCycle (s.poke addr v) = .next u ∧ u = { t with mem := u.mem }

/-- R311, R305: nothing but `reset` wakes a halted core: any schedule of the other requests leaves all of it as it
was, except that the host may still write memory. -/
def Obligations.OnlyResetWakesAHaltedCore : Prop :=
  ∀ (qs : List Request) (s : State), s.resetDone = true → s.halted = true → (∀ pc, .reset pc ∉ qs) →
    ∃ t, serveAll qs s = .next t ∧ t = { s with mem := t.mem }

/-! ### Invariants and safety -/

/-- The state after reset meets the invariant (R48, R52; PC and the empty memory are the model's choices, log
entries 3 and 4, which the invariant does not mention). -/
def Obligations.InvariantHoldsAtReset : Prop := CoreInv State.reset

/-- R48 (derived there), with SP inert, memory canonical and at most one Bus Event a frame: every step keeps the
invariant, from any state that meets it. -/
def Obligations.EveryStepKeepsTheInvariant : Prop :=
  ∀ s t : State, CoreInv s → step s = .next t → CoreInv t

/-- R48, R90: so does every request of the host, `step_cycle` in the middle of an instruction among them; and from
such a state no request faults or is refused. -/
def Obligations.EveryRequestIsServedAndKeepsTheInvariant : Prop :=
  ∀ (s : State) (q : Request), CoreInv s → ∃ (t : State) (r : Reply), serve q s = .next (t, r) ∧ CoreInv t

/-- R48, R53, R71, R331 (derived): after any schedule with a reset in it, from any power-on, the state reached meets
the invariant, and no schedule asked of it from there faults or is refused. -/
def Obligations.EveryReachableStateIsSafe : Prop :=
  ∀ t : State, Reachable t → CoreInv t ∧ ∀ qs : List Request, ∃ u, serveAll qs t = .next u
end

