-- ==== Sys2Proof/Laws/Decode.lean ====
section
/-! SUPPORT. The small lemmas of the opcode table and of the byte helpers. -/

namespace Sys2Proof

/-! ### Bytes -/

theorem getLsbD_concatBytes (hi lo : Byte) (i : Nat) :
    (concatBytes hi lo).getLsbD i = if i < 8 then lo.getLsbD i else hi.getLsbD (i - 8) := by
  exact BitVec.getLsbD_append

theorem getLsbD_lowByte (v : Addr) (i : Nat) : (lowByte v).getLsbD i = (decide (i < 8) && v.getLsbD i) := by
  simp [lowByte, BitVec.getLsbD_extractLsb']

theorem getLsbD_highByte (v : Addr) (i : Nat) :
    (highByte v).getLsbD i = (decide (i < 8) && v.getLsbD (8 + i)) := by
  simp [highByte, BitVec.getLsbD_extractLsb']

@[simp] theorem lowByte_concatBytes (hi lo : Byte) : lowByte (concatBytes hi lo) = lo := by
  apply BitVec.eq_of_getLsbD_eq
  intro i h
  rw [getLsbD_lowByte, getLsbD_concatBytes]
  simp [h]

@[simp] theorem highByte_concatBytes (hi lo : Byte) : highByte (concatBytes hi lo) = hi := by
  apply BitVec.eq_of_getLsbD_eq
  intro i h
  rw [getLsbD_highByte, getLsbD_concatBytes]
  simp [h]

@[simp] theorem concatBytes_high_low (v : Addr) : concatBytes (highByte v) (lowByte v) = v := by
  apply BitVec.eq_of_getLsbD_eq
  intro i h
  rw [getLsbD_concatBytes, getLsbD_lowByte, getLsbD_highByte]
  by_cases h8 : i < 8
  · simp [h8]
  · have hs : 8 + (i - 8) = i := by omega
    have hl : i - 8 < 8 := by omega
    rw [hs]
    simp [h8, hl]

/-! ### The opcode table -/

/-- No two rows of the opcode map share an opcode byte. -/
theorem opcodeTable_pairwise : opcodeTable.Pairwise (fun r q => r.opcode ≠ q.opcode) := by
  decide

/-- A byte has no row exactly when it is one of the ranges of 30_encoding.md R108. -/
theorem findRow_isNone_iff : ∀ op : Byte, (findRow op).isNone = isUndefinedByte op := by decide

theorem findRow_of_undefined (op : Byte) (h : isUndefinedByte op = true) : findRow op = none := by
  have := findRow_isNone_iff op
  rw [h] at this
  simpa using this

/-- The row of every byte that has one is in the table, at that byte. -/
theorem findRow_mem (op : Byte) (r : OpRow) (h : findRow op = some r) : r ∈ opcodeTable ∧ r.opcode = op := by
  refine ⟨List.mem_of_find?_eq_some h, ?_⟩
  simpa using List.find?_some h

@[simp] theorem classOf_undefined (op : Byte) (h : isUndefinedByte op = true) : classOf op = .undefined := by
  simp [classOf, findRow_of_undefined op h]

@[simp] theorem instrOf_undefined (op : Byte) (o : Addr) (h : isUndefinedByte op = true) :
    instrOf op o = .undef op := by
  simp [instrOf, findRow_of_undefined op h]

@[simp] theorem classOf_nop : classOf 0x00#8 = .implied := rfl
@[simp] theorem classOf_ldaImm : classOf 0x10#8 = .immediate := rfl
@[simp] theorem classOf_ldbImm : classOf 0x11#8 = .immediate := rfl
@[simp] theorem classOf_ldaAbs : classOf 0x12#8 = .absolute := rfl
@[simp] theorem classOf_staAbs : classOf 0x13#8 = .absolute := rfl
@[simp] theorem classOf_addB : classOf 0x20#8 = .implied := rfl
@[simp] theorem classOf_subB : classOf 0x21#8 = .implied := rfl
@[simp] theorem classOf_andB : classOf 0x22#8 = .implied := rfl
@[simp] theorem classOf_orB : classOf 0x23#8 = .implied := rfl
@[simp] theorem classOf_xorB : classOf 0x24#8 = .implied := rfl
@[simp] theorem classOf_incA : classOf 0x25#8 = .implied := rfl
@[simp] theorem classOf_decA : classOf 0x26#8 = .implied := rfl
@[simp] theorem classOf_jmpAbs : classOf 0x30#8 = .absolute := rfl
@[simp] theorem classOf_jzAbs : classOf 0x31#8 = .absolute := rfl
@[simp] theorem classOf_jnzAbs : classOf 0x32#8 = .absolute := rfl
@[simp] theorem classOf_ldxImm : classOf 0x33#8 = .immediate := rfl
@[simp] theorem classOf_ldaIdx : classOf 0x34#8 = .indexed := rfl
@[simp] theorem classOf_staIdx : classOf 0x35#8 = .indexed := rfl
@[simp] theorem classOf_hlt : classOf 0xFF#8 = .implied := rfl

@[simp] theorem instrOf_nop (o : Addr) : instrOf 0x00#8 o = .nop := rfl
@[simp] theorem instrOf_ldaImm (o : Addr) : instrOf 0x10#8 o = .ldaImm (lowByte o) := rfl
@[simp] theorem instrOf_ldbImm (o : Addr) : instrOf 0x11#8 o = .ldbImm (lowByte o) := rfl
@[simp] theorem instrOf_ldaAbs (o : Addr) : instrOf 0x12#8 o = .ldaAbs o := rfl
@[simp] theorem instrOf_staAbs (o : Addr) : instrOf 0x13#8 o = .staAbs o := rfl
@[simp] theorem instrOf_addB (o : Addr) : instrOf 0x20#8 o = .addB := rfl
@[simp] theorem instrOf_subB (o : Addr) : instrOf 0x21#8 o = .subB := rfl
@[simp] theorem instrOf_andB (o : Addr) : instrOf 0x22#8 o = .andB := rfl
@[simp] theorem instrOf_orB (o : Addr) : instrOf 0x23#8 o = .orB := rfl
@[simp] theorem instrOf_xorB (o : Addr) : instrOf 0x24#8 o = .xorB := rfl
@[simp] theorem instrOf_incA (o : Addr) : instrOf 0x25#8 o = .incA := rfl
@[simp] theorem instrOf_decA (o : Addr) : instrOf 0x26#8 o = .decA := rfl
@[simp] theorem instrOf_jmpAbs (o : Addr) : instrOf 0x30#8 o = .jmpAbs o := rfl
@[simp] theorem instrOf_jzAbs (o : Addr) : instrOf 0x31#8 o = .jzAbs o := rfl
@[simp] theorem instrOf_jnzAbs (o : Addr) : instrOf 0x32#8 o = .jnzAbs o := rfl
@[simp] theorem instrOf_ldxImm (o : Addr) : instrOf 0x33#8 o = .ldxImm (lowByte o) := rfl
@[simp] theorem instrOf_ldaIdx (o : Addr) : instrOf 0x34#8 o = .ldaIdx o := rfl
@[simp] theorem instrOf_staIdx (o : Addr) : instrOf 0x35#8 o = .staIdx o := rfl
@[simp] theorem instrOf_hlt (o : Addr) : instrOf 0xFF#8 o = .hlt := rfl

/-- Every opcode byte is one of the nineteen of R106 or undefined (R108). -/
theorem opcode_cases : ∀ op : Byte,
    op = 0x00#8 ∨ op = 0x10#8 ∨ op = 0x11#8 ∨ op = 0x12#8 ∨ op = 0x13#8 ∨ op = 0x20#8 ∨
    op = 0x21#8 ∨ op = 0x22#8 ∨ op = 0x23#8 ∨ op = 0x24#8 ∨ op = 0x25#8 ∨ op = 0x26#8 ∨
    op = 0x30#8 ∨ op = 0x31#8 ∨ op = 0x32#8 ∨ op = 0x33#8 ∨ op = 0x34#8 ∨ op = 0x35#8 ∨ op = 0xFF#8 ∨
    isUndefinedByte op = true := by decide

/-! ### The decoder -/

/-- What the decoder answers: the instruction of the opcode and its operand bytes, by how many there are. -/
theorem decode_ok (op : Byte) (bytes rest : List Byte) (i : Instr) (h : decode (op :: bytes) = .ok (i, rest)) :
    ((classOf op).operandBytes = 0 ∧ i = instrOf op 0#16 ∧ rest = bytes) ∨
    (∃ lo, (classOf op).operandBytes = 1 ∧ i = instrOf op (concatBytes 0#8 lo) ∧ bytes = lo :: rest) ∨
    (∃ lo hi, (classOf op).operandBytes = 2 ∧ i = instrOf op (concatBytes hi lo) ∧ bytes = lo :: hi :: rest) := by
  unfold decode at h
  simp only at h
  split at h <;> simp_all

end Sys2Proof
end

