-- ==== Sys2Proof/Laws/Flags.lean ====
section
/-! SUPPORT. What a flag update does, bit by bit (41_flag_unit.md R174). -/

namespace Sys2Proof.Machine

/-- A flag update takes the masked bits from the new byte and keeps the others. -/
theorem getLsbD_updateFlags (f mask new : Byte) (k : Nat) :
    (updateFlags f mask new).getLsbD k = if mask.getLsbD k then new.getLsbD k else f.getLsbD k := by
  by_cases hk : k < 8
  · rw [updateFlags, BitVec.getLsbD_or, BitVec.getLsbD_and, BitVec.getLsbD_and, BitVec.getLsbD_not]
    cases mask.getLsbD k <;> simp [hk]
  · rw [BitVec.getLsbD_of_ge _ _ (by omega), BitVec.getLsbD_of_ge mask _ (by omega),
      BitVec.getLsbD_of_ge f _ (by omega)]
    rfl

/-- The four named bits of a packed FLAGS byte (10_state.md R36). -/
theorem packFlags_bits : ∀ c z n v : Bool,
    flagC (packFlags c z n v) = c ∧ flagZ (packFlags c z n v) = z ∧ flagN (packFlags c z n v) = n ∧
      flagV (packFlags c z n v) = v ∧ flagsReserved (packFlags c z n v) = 0#4 := by decide

/-- The reserved bits survive every update whose mask does not name them. -/
theorem flagsReserved_updateFlags (f mask new : Byte) (h : ∀ k, k < 4 → mask.getLsbD (4 + k) = false) :
    flagsReserved (updateFlags f mask new) = flagsReserved f := by
  apply BitVec.eq_of_getLsbD_eq
  intro i hi
  rw [flagsReserved, flagsReserved, BitVec.getLsbD_extractLsb', BitVec.getLsbD_extractLsb',
    getLsbD_updateFlags, h i hi]
  rfl

/-- What a full update of the named bits (mask 0x0F, R174) leaves. -/
theorem updateFlags_named (f : Byte) (c z n v : Bool) :
    flagC (updateFlags f 0x0F#8 (packFlags c z n v)) = c ∧ flagZ (updateFlags f 0x0F#8 (packFlags c z n v)) = z ∧
    flagN (updateFlags f 0x0F#8 (packFlags c z n v)) = n ∧ flagV (updateFlags f 0x0F#8 (packFlags c z n v)) = v ∧
    flagsReserved (updateFlags f 0x0F#8 (packFlags c z n v)) = flagsReserved f := by
  have hb := packFlags_bits c z n v
  simp only [flagC, flagZ, flagN, flagV] at *
  refine ⟨?_, ?_, ?_, ?_, flagsReserved_updateFlags _ _ _ (by decide)⟩
  all_goals
    rw [getLsbD_updateFlags, if_pos (by decide)]
    tauto

/-- The 9-bit sum does not wrap (R171: "0 .. 0x1FE, no wrap"). -/
theorem sum9_toNat (a b : Byte) : (sum9 a b).toNat = a.toNat + b.toNat := by
  have := a.isLt
  have := b.isLt
  simp [sum9]
  omega

/-- The 9-bit difference is `a + 256 - b` (R172). -/
theorem diff9_toNat (a b : Byte) : (diff9 a b).toNat = a.toNat + 256 - b.toNat := by
  have := a.isLt
  have := b.isLt
  simp [diff9]
  omega

/-- The result byte is the sum modulo 256. -/
theorem resultOf_toNat (s : Word9) : (resultOf s).toNat = s.toNat % 256 := by
  simp [resultOf]

end Sys2Proof.Machine
end

