-- ==== Sys2Proof/Laws/Memory.lean ====
section
/-! SUPPORT. The laws of the memory list: a read after a write, and the canonical form kept by every memory
operation. -/

namespace Sys2Proof.Machine

/-! ### Reading -/

theorem Memory.lookup_erase (k k' : Nat) (m : Memory) :
    Memory.lookup k' (Memory.erase k m) = if k' = k then unlistedByte else Memory.lookup k' m := by
  induction m with
  | nil => simp [Memory.erase, Memory.lookup]
  | cons p m ih =>
    obtain ⟨q, v⟩ := p
    by_cases hq : q = k
    · subst hq
      by_cases hk : k' = q
      · simpa [Memory.erase, hk] using ih
      · simp [Memory.erase, Memory.lookup, ih, hk, Ne.symm hk]
    · by_cases hk : q = k'
      · simp [Memory.erase, Memory.lookup, hk ▸ hq, hk]
      · simp [Memory.erase, Memory.lookup, hq, hk, ih]

theorem Memory.lookup_insert_same (k : Nat) (v : Byte) (m : Memory) (h : ∀ p ∈ m, p.1 ≠ k) :
    Memory.lookup k (Memory.insert k v m) = v := by
  induction m with
  | nil => simp [Memory.insert, Memory.lookup]
  | cons p m ih =>
    obtain ⟨q, w⟩ := p
    have hq : q ≠ k := h (q, w) (by simp)
    by_cases hlt : k < q
    · simp [Memory.insert, hlt, Memory.lookup]
    · simpa [Memory.insert, hlt, Memory.lookup, hq] using ih fun p hp => h p (by simp [hp])

theorem Memory.lookup_insert_other (k k' : Nat) (v : Byte) (m : Memory) (h : k' ≠ k) :
    Memory.lookup k' (Memory.insert k v m) = Memory.lookup k' m := by
  induction m with
  | nil => simp [Memory.insert, Memory.lookup, Ne.symm h]
  | cons p m ih =>
    obtain ⟨q, w⟩ := p
    by_cases hlt : k < q
    · simp [Memory.insert, hlt, Memory.lookup, Ne.symm h]
    · simp [Memory.insert, hlt, Memory.lookup, ih]

theorem Memory.not_mem_erase (k : Nat) (m : Memory) : ∀ p ∈ Memory.erase k m, p.1 ≠ k := by
  induction m with
  | nil => simp [Memory.erase]
  | cons p m ih =>
    obtain ⟨q, w⟩ := p
    by_cases hq : q = k
    · simpa [Memory.erase, hq] using ih
    · simpa [Memory.erase, hq] using ih

theorem Memory.lookup_store (k k' : Nat) (v : Byte) (m : Memory) :
    Memory.lookup k' (Memory.store k v m) = if k' = k then v else Memory.lookup k' m := by
  unfold Memory.store
  by_cases hk : k' = k
  · subst hk
    by_cases hv : v = unlistedByte
    · simp [hv, Memory.lookup_erase]
    · simp [hv, Memory.lookup_insert_same _ _ _ (Memory.not_mem_erase k' m)]
  · by_cases hv : v = unlistedByte <;> simp [hv, hk, Memory.lookup_erase, Memory.lookup_insert_other]

/-- A read after a write: the byte written at its address, what was there before at every other. It holds of every
list, canonical or not. -/
theorem Memory.read_write (m : Memory) (a b : Addr) (v : Byte) :
    (m.write a v).read b = if b = a then v else m.read b := by
  simp [Memory.read, Memory.write, Memory.lookup_store, BitVec.toNat_inj]

@[simp] theorem Memory.read_write_same (m : Memory) (a : Addr) (v : Byte) : (m.write a v).read a = v := by
  simp [Memory.read_write]

theorem Memory.read_write_other (m : Memory) (a b : Addr) (v : Byte) (h : b ≠ a) :
    (m.write a v).read b = m.read b := by
  simp [Memory.read_write, h]

/-- A run of bytes leaves every address outside it alone. -/
theorem Memory.read_writeBytes_outside (vs : List Byte) (m : Memory) (a b : Addr)
    (h : ∀ k, k < vs.length → b ≠ a + BitVec.ofNat 16 k) : (m.writeBytes a vs).read b = m.read b := by
  induction vs generalizing m a with
  | nil => rfl
  | cons v vs ih =>
    have h0 : b ≠ a := by simpa using h 0 (by simp)
    rw [Memory.writeBytes, ih, Memory.read_write_other _ _ _ _ h0]
    intro k hk
    have hk' := h (k + 1) (by simpa using hk)
    rw [show BitVec.ofNat 16 (k + 1) = 1#16 + BitVec.ofNat 16 k by rw [BitVec.add_comm, ← BitVec.ofNat_add],
      ← BitVec.add_assoc] at hk'
    exact hk'

/-- A run of bytes no longer than memory reads back, byte by byte. -/
theorem Memory.read_writeBytes_inside (vs : List Byte) (m : Memory) (a : Addr) (k : Nat) (v : Byte)
    (hl : vs.length ≤ 65536) (h : vs[k]? = some v) : (m.writeBytes a vs).read (a + BitVec.ofNat 16 k) = v := by
  induction vs generalizing m a k with
  | nil => simp at h
  | cons w vs ih =>
    simp only [List.length_cons] at hl
    cases k with
    | zero =>
      simp only [List.getElem?_cons_zero, Option.some.injEq] at h
      subst h
      rw [Memory.writeBytes, Memory.read_writeBytes_outside]
      · simp
      · intro k hk he
        rw [← BitVec.toNat_inj] at he
        have := a.isLt
        simp at he; omega
    | succ k =>
      simp only [List.getElem?_cons_succ] at h
      rw [Memory.writeBytes, show BitVec.ofNat 16 (k + 1) = 1#16 + BitVec.ofNat 16 k by
        rw [BitVec.add_comm, ← BitVec.ofNat_add], ← BitVec.add_assoc]
      exact ih _ _ _ (by omega) h

/-! ### The canonical form -/

theorem Memory.above_iff (k : Nat) (m : Memory) : Memory.above k m = true ↔ ∀ p ∈ m, k < p.1 := by
  induction m with
  | nil => simp [Memory.above]
  | cons p m ih => obtain ⟨q, w⟩ := p; simp [Memory.above, ih]

theorem Memory.wf_cons (k : Nat) (v : Byte) (m : Memory) :
    Memory.wf ((k, v) :: m) = true ↔
      (k < Config.memSize ∧ v ≠ unlistedByte) ∧ (∀ p ∈ m, k < p.1) ∧ Memory.wf m = true := by
  simp [Memory.wf, Memory.above_iff, and_assoc]

theorem Memory.mem_erase (k : Nat) (m : Memory) : ∀ p ∈ Memory.erase k m, p ∈ m := by
  induction m with
  | nil => simp [Memory.erase]
  | cons p m ih =>
    obtain ⟨q, w⟩ := p
    by_cases hq : q = k
    · simpa [Memory.erase, hq] using fun a b h => Or.inr (ih _ h)
    · simp only [Memory.erase, hq, if_false, List.mem_cons]
      rintro p (h | h)
      · exact .inl h
      · exact .inr (ih p h)

theorem Memory.wf_erase (k : Nat) (m : Memory) (h : m.wf = true) : (Memory.erase k m).wf = true := by
  induction m with
  | nil => rfl
  | cons p m ih =>
    obtain ⟨q, w⟩ := p
    rw [Memory.wf_cons] at h
    by_cases hq : q = k
    · simpa [Memory.erase, hq] using ih h.2.2
    · rw [Memory.erase, if_neg hq, Memory.wf_cons]
      exact ⟨h.1, fun p hp => h.2.1 p (Memory.mem_erase k m p hp), ih h.2.2⟩

theorem Memory.mem_insert (k : Nat) (v : Byte) (m : Memory) :
    ∀ p ∈ Memory.insert k v m, p = (k, v) ∨ p ∈ m := by
  induction m with
  | nil => simp [Memory.insert]
  | cons p m ih =>
    obtain ⟨q, w⟩ := p
    by_cases hlt : k < q
    · simp [Memory.insert, hlt]
    · simp only [Memory.insert, hlt, if_false, List.mem_cons]
      rintro p (h | h)
      · exact .inr (.inl h)
      · exact (ih p h).imp_right .inr

theorem Memory.wf_insert (k : Nat) (v : Byte) (m : Memory) (hk : k < Config.memSize) (hv : v ≠ unlistedByte)
    (hm : ∀ p ∈ m, p.1 ≠ k) (h : m.wf = true) : (Memory.insert k v m).wf = true := by
  induction m with
  | nil => rw [Memory.insert, Memory.wf_cons]; exact ⟨⟨hk, hv⟩, by simp, rfl⟩
  | cons p m ih =>
    obtain ⟨q, w⟩ := p
    have hne : q ≠ k := hm (q, w) (by simp)
    have hc := (Memory.wf_cons q w m).1 h
    by_cases hlt : k < q
    · rw [Memory.insert, if_pos hlt, Memory.wf_cons]
      refine ⟨⟨hk, hv⟩, ?_, h⟩
      rintro p hp
      rcases List.mem_cons.1 hp with rfl | hp
      · exact hlt
      · exact hlt.trans (hc.2.1 p hp)
    · rw [Memory.insert, if_neg hlt, Memory.wf_cons]
      refine ⟨hc.1, ?_, ih (fun p hp => hm p (by simp [hp])) hc.2.2⟩
      rintro p hp
      rcases Memory.mem_insert k v m p hp with rfl | hp
      · change q < k; omega
      · exact hc.2.1 p hp

/-- A write keeps the canonical form. -/
theorem Memory.wf_write (m : Memory) (a : Addr) (v : Byte) (h : m.wf = true) : (m.write a v).wf = true := by
  have ha : a.toNat < Config.memSize := a.isLt
  unfold Memory.write Memory.store
  split
  · exact Memory.wf_erase _ _ h
  · exact Memory.wf_insert _ _ _ ha ‹_› (Memory.not_mem_erase _ _) (Memory.wf_erase _ _ h)

/-- Writing a run of bytes keeps the canonical form. -/
theorem Memory.wf_writeBytes (vs : List Byte) (m : Memory) (a : Addr) (h : m.wf = true) :
    (m.writeBytes a vs).wf = true := by
  induction vs generalizing m a with
  | nil => exact h
  | cons v vs ih => exact ih _ _ (Memory.wf_write m a v h)

theorem Memory.mem_ofInitUpTo (init : Config.InitMem) (n : Nat) :
    ∀ p ∈ Memory.ofInitUpTo init n, p.1 < n := by
  induction n with
  | zero => simp [Memory.ofInitUpTo]
  | succ n ih =>
    intro p hp
    simp only [Memory.ofInitUpTo] at hp
    split at hp
    · exact (ih p hp).trans n.lt_succ_self
    · rcases List.mem_append.1 hp with hp | hp
      · exact (ih p hp).trans n.lt_succ_self
      · simp_all

theorem Memory.wf_append (m : Memory) (k : Nat) (v : Byte) (hk : k < Config.memSize) (hv : v ≠ unlistedByte)
    (hm : ∀ p ∈ m, p.1 < k) (h : m.wf = true) : Memory.wf (m ++ [(k, v)]) = true := by
  induction m with
  | nil => rw [List.nil_append, Memory.wf_cons]; exact ⟨⟨hk, hv⟩, by simp, rfl⟩
  | cons p m ih =>
    obtain ⟨q, w⟩ := p
    have hc := (Memory.wf_cons q w m).1 h
    rw [List.cons_append, Memory.wf_cons]
    refine ⟨hc.1, ?_, ih (fun p hp => hm p (by simp [hp])) hc.2.2⟩
    intro p hp
    rcases List.mem_append.1 hp with hp | hp
    · exact hc.2.1 p hp
    · have : p = (k, v) := by simpa using hp
      subst this
      exact hm (q, w) (by simp)

theorem Memory.wf_ofInitUpTo (init : Config.InitMem) (n : Nat) (hn : n ≤ Config.memSize) :
    (Memory.ofInitUpTo init n).wf = true := by
  induction n with
  | zero => rfl
  | succ n ih =>
    simp only [Memory.ofInitUpTo]
    split
    · exact ih (by omega)
    · exact Memory.wf_append _ _ _ (by omega) ‹_› (Memory.mem_ofInitUpTo init n) (ih (by omega))

/-- The power-on memory is canonical, whatever `init_mem` is. -/
theorem Memory.wf_ofInit (init : Config.InitMem) : (Memory.ofInit init).wf = true :=
  Memory.wf_ofInitUpTo init _ le_rfl

/-- The memory of `State.reset` is canonical. -/
theorem State.reset_mem_wf : State.reset.mem.wf = true := rfl

end Sys2Proof.Machine
end

