-- ==== Sys2Proof/Laws/State.lean ====
section
/-! SUPPORT. One lemma per field per state update, so that no later proof unfolds a record update. -/

namespace Sys2Proof.Machine

/-! ### `record` -/

@[simp] theorem State.record_a (s : State) (d : Dir) (addr : Addr) (v : Byte) (n : Note) :
    (s.record d addr v n).a = s.a := rfl
@[simp] theorem State.record_b (s : State) (d : Dir) (addr : Addr) (v : Byte) (n : Note) :
    (s.record d addr v n).b = s.b := rfl
@[simp] theorem State.record_x (s : State) (d : Dir) (addr : Addr) (v : Byte) (n : Note) :
    (s.record d addr v n).x = s.x := rfl
@[simp] theorem State.record_pc (s : State) (d : Dir) (addr : Addr) (v : Byte) (n : Note) :
    (s.record d addr v n).pc = s.pc := rfl
@[simp] theorem State.record_sp (s : State) (d : Dir) (addr : Addr) (v : Byte) (n : Note) :
    (s.record d addr v n).sp = s.sp := rfl
@[simp] theorem State.record_flags (s : State) (d : Dir) (addr : Addr) (v : Byte) (n : Note) :
    (s.record d addr v n).flags = s.flags := rfl
@[simp] theorem State.record_mem (s : State) (d : Dir) (addr : Addr) (v : Byte) (n : Note) :
    (s.record d addr v n).mem = s.mem := rfl
@[simp] theorem State.record_opcode (s : State) (d : Dir) (addr : Addr) (v : Byte) (n : Note) :
    (s.record d addr v n).opcode = s.opcode := rfl
@[simp] theorem State.record_operand (s : State) (d : Dir) (addr : Addr) (v : Byte) (n : Note) :
    (s.record d addr v n).operand = s.operand := rfl
@[simp] theorem State.record_ustate (s : State) (d : Dir) (addr : Addr) (v : Byte) (n : Note) :
    (s.record d addr v n).ustate = s.ustate := rfl
@[simp] theorem State.record_halted (s : State) (d : Dir) (addr : Addr) (v : Byte) (n : Note) :
    (s.record d addr v n).halted = s.halted := rfl
@[simp] theorem State.record_cycle (s : State) (d : Dir) (addr : Addr) (v : Byte) (n : Note) :
    (s.record d addr v n).cycle = s.cycle := rfl
@[simp] theorem State.record_timeline (s : State) (d : Dir) (addr : Addr) (v : Byte) (n : Note) :
    (s.record d addr v n).timeline = s.timeline := rfl
@[simp] theorem State.record_events (s : State) (d : Dir) (addr : Addr) (v : Byte) (n : Note) :
    (s.record d addr v n).events = s.events ++ [⟨s.cycle, s.ustate, d, addr, v, n⟩] := rfl
@[simp] theorem State.record_resetDone (s : State) (d : Dir) (addr : Addr) (v : Byte) (n : Note) :
    (s.record d addr v n).resetDone = s.resetDone := rfl

/-! ### `memRead` -/

@[simp] theorem State.memRead_a (s : State) (addr : Addr) (n : Note) :
    (s.memRead addr n).2.a = s.a := rfl
@[simp] theorem State.memRead_b (s : State) (addr : Addr) (n : Note) :
    (s.memRead addr n).2.b = s.b := rfl
@[simp] theorem State.memRead_x (s : State) (addr : Addr) (n : Note) :
    (s.memRead addr n).2.x = s.x := rfl
@[simp] theorem State.memRead_pc (s : State) (addr : Addr) (n : Note) :
    (s.memRead addr n).2.pc = s.pc := rfl
@[simp] theorem State.memRead_sp (s : State) (addr : Addr) (n : Note) :
    (s.memRead addr n).2.sp = s.sp := rfl
@[simp] theorem State.memRead_flags (s : State) (addr : Addr) (n : Note) :
    (s.memRead addr n).2.flags = s.flags := rfl
@[simp] theorem State.memRead_mem (s : State) (addr : Addr) (n : Note) :
    (s.memRead addr n).2.mem = s.mem := rfl
@[simp] theorem State.memRead_opcode (s : State) (addr : Addr) (n : Note) :
    (s.memRead addr n).2.opcode = s.opcode := rfl
@[simp] theorem State.memRead_operand (s : State) (addr : Addr) (n : Note) :
    (s.memRead addr n).2.operand = s.operand := rfl
@[simp] theorem State.memRead_ustate (s : State) (addr : Addr) (n : Note) :
    (s.memRead addr n).2.ustate = s.ustate := rfl
@[simp] theorem State.memRead_halted (s : State) (addr : Addr) (n : Note) :
    (s.memRead addr n).2.halted = s.halted := rfl
@[simp] theorem State.memRead_cycle (s : State) (addr : Addr) (n : Note) :
    (s.memRead addr n).2.cycle = s.cycle := rfl
@[simp] theorem State.memRead_timeline (s : State) (addr : Addr) (n : Note) :
    (s.memRead addr n).2.timeline = s.timeline := rfl
@[simp] theorem State.memRead_events (s : State) (addr : Addr) (n : Note) :
    (s.memRead addr n).2.events = s.events ++ [⟨s.cycle, s.ustate, .read, addr, s.mem.read addr, n⟩] := rfl
@[simp] theorem State.memRead_resetDone (s : State) (addr : Addr) (n : Note) :
    (s.memRead addr n).2.resetDone = s.resetDone := rfl

/-! ### `memWrite` -/

@[simp] theorem State.memWrite_a (s : State) (addr : Addr) (v : Byte) (n : Note) :
    (s.memWrite addr v n).a = s.a := rfl
@[simp] theorem State.memWrite_b (s : State) (addr : Addr) (v : Byte) (n : Note) :
    (s.memWrite addr v n).b = s.b := rfl
@[simp] theorem State.memWrite_x (s : State) (addr : Addr) (v : Byte) (n : Note) :
    (s.memWrite addr v n).x = s.x := rfl
@[simp] theorem State.memWrite_pc (s : State) (addr : Addr) (v : Byte) (n : Note) :
    (s.memWrite addr v n).pc = s.pc := rfl
@[simp] theorem State.memWrite_sp (s : State) (addr : Addr) (v : Byte) (n : Note) :
    (s.memWrite addr v n).sp = s.sp := rfl
@[simp] theorem State.memWrite_flags (s : State) (addr : Addr) (v : Byte) (n : Note) :
    (s.memWrite addr v n).flags = s.flags := rfl
@[simp] theorem State.memWrite_mem (s : State) (addr : Addr) (v : Byte) (n : Note) :
    (s.memWrite addr v n).mem = s.mem.write addr v := rfl
@[simp] theorem State.memWrite_opcode (s : State) (addr : Addr) (v : Byte) (n : Note) :
    (s.memWrite addr v n).opcode = s.opcode := rfl
@[simp] theorem State.memWrite_operand (s : State) (addr : Addr) (v : Byte) (n : Note) :
    (s.memWrite addr v n).operand = s.operand := rfl
@[simp] theorem State.memWrite_ustate (s : State) (addr : Addr) (v : Byte) (n : Note) :
    (s.memWrite addr v n).ustate = s.ustate := rfl
@[simp] theorem State.memWrite_halted (s : State) (addr : Addr) (v : Byte) (n : Note) :
    (s.memWrite addr v n).halted = s.halted := rfl
@[simp] theorem State.memWrite_cycle (s : State) (addr : Addr) (v : Byte) (n : Note) :
    (s.memWrite addr v n).cycle = s.cycle := rfl
@[simp] theorem State.memWrite_timeline (s : State) (addr : Addr) (v : Byte) (n : Note) :
    (s.memWrite addr v n).timeline = s.timeline := rfl
@[simp] theorem State.memWrite_events (s : State) (addr : Addr) (v : Byte) (n : Note) :
    (s.memWrite addr v n).events = s.events ++ [⟨s.cycle, s.ustate, .write, addr, v, n⟩] := rfl
@[simp] theorem State.memWrite_resetDone (s : State) (addr : Addr) (v : Byte) (n : Note) :
    (s.memWrite addr v n).resetDone = s.resetDone := rfl

/-! ### `fetchByte` -/

@[simp] theorem State.fetchByte_a (s : State) (n : Note) :
    (s.fetchByte n).2.a = s.a := rfl
@[simp] theorem State.fetchByte_b (s : State) (n : Note) :
    (s.fetchByte n).2.b = s.b := rfl
@[simp] theorem State.fetchByte_x (s : State) (n : Note) :
    (s.fetchByte n).2.x = s.x := rfl
@[simp] theorem State.fetchByte_pc (s : State) (n : Note) :
    (s.fetchByte n).2.pc = s.pc + 1#16 := rfl
@[simp] theorem State.fetchByte_sp (s : State) (n : Note) :
    (s.fetchByte n).2.sp = s.sp := rfl
@[simp] theorem State.fetchByte_flags (s : State) (n : Note) :
    (s.fetchByte n).2.flags = s.flags := rfl
@[simp] theorem State.fetchByte_mem (s : State) (n : Note) :
    (s.fetchByte n).2.mem = s.mem := rfl
@[simp] theorem State.fetchByte_opcode (s : State) (n : Note) :
    (s.fetchByte n).2.opcode = s.opcode := rfl
@[simp] theorem State.fetchByte_operand (s : State) (n : Note) :
    (s.fetchByte n).2.operand = s.operand := rfl
@[simp] theorem State.fetchByte_ustate (s : State) (n : Note) :
    (s.fetchByte n).2.ustate = s.ustate := rfl
@[simp] theorem State.fetchByte_halted (s : State) (n : Note) :
    (s.fetchByte n).2.halted = s.halted := rfl
@[simp] theorem State.fetchByte_cycle (s : State) (n : Note) :
    (s.fetchByte n).2.cycle = s.cycle := rfl
@[simp] theorem State.fetchByte_timeline (s : State) (n : Note) :
    (s.fetchByte n).2.timeline = s.timeline := rfl
@[simp] theorem State.fetchByte_events (s : State) (n : Note) :
    (s.fetchByte n).2.events = s.events ++ [⟨s.cycle, s.ustate, .read, s.pc, s.mem.read s.pc, n⟩] := rfl
@[simp] theorem State.fetchByte_resetDone (s : State) (n : Note) :
    (s.fetchByte n).2.resetDone = s.resetDone := rfl

/-! ### `endExecute` -/

@[simp] theorem State.endExecute_a (s : State) :
    (s.endExecute).a = s.a := rfl
@[simp] theorem State.endExecute_b (s : State) :
    (s.endExecute).b = s.b := rfl
@[simp] theorem State.endExecute_x (s : State) :
    (s.endExecute).x = s.x := rfl
@[simp] theorem State.endExecute_pc (s : State) :
    (s.endExecute).pc = s.pc := rfl
@[simp] theorem State.endExecute_sp (s : State) :
    (s.endExecute).sp = s.sp := rfl
@[simp] theorem State.endExecute_flags (s : State) :
    (s.endExecute).flags = s.flags := rfl
@[simp] theorem State.endExecute_mem (s : State) :
    (s.endExecute).mem = s.mem := rfl
@[simp] theorem State.endExecute_opcode (s : State) :
    (s.endExecute).opcode = s.opcode := rfl
@[simp] theorem State.endExecute_operand (s : State) :
    (s.endExecute).operand = s.operand := rfl
@[simp] theorem State.endExecute_ustate (s : State) :
    (s.endExecute).ustate = MicroState.writeBack := rfl
@[simp] theorem State.endExecute_halted (s : State) :
    (s.endExecute).halted = s.halted := rfl
@[simp] theorem State.endExecute_cycle (s : State) :
    (s.endExecute).cycle = s.cycle := rfl
@[simp] theorem State.endExecute_timeline (s : State) :
    (s.endExecute).timeline = s.timeline := rfl
@[simp] theorem State.endExecute_events (s : State) :
    (s.endExecute).events = s.events := rfl
@[simp] theorem State.endExecute_resetDone (s : State) :
    (s.endExecute).resetDone = s.resetDone := rfl

/-! ### `produceA` -/

@[simp] theorem State.produceA_a (s : State) (v : Byte) :
    (s.produceA v).a = v := rfl
@[simp] theorem State.produceA_b (s : State) (v : Byte) :
    (s.produceA v).b = s.b := rfl
@[simp] theorem State.produceA_x (s : State) (v : Byte) :
    (s.produceA v).x = s.x := rfl
@[simp] theorem State.produceA_pc (s : State) (v : Byte) :
    (s.produceA v).pc = s.pc := rfl
@[simp] theorem State.produceA_sp (s : State) (v : Byte) :
    (s.produceA v).sp = s.sp := rfl
@[simp] theorem State.produceA_flags (s : State) (v : Byte) :
    (s.produceA v).flags = setZN v s.flags := rfl
@[simp] theorem State.produceA_mem (s : State) (v : Byte) :
    (s.produceA v).mem = s.mem := rfl
@[simp] theorem State.produceA_opcode (s : State) (v : Byte) :
    (s.produceA v).opcode = s.opcode := rfl
@[simp] theorem State.produceA_operand (s : State) (v : Byte) :
    (s.produceA v).operand = s.operand := rfl
@[simp] theorem State.produceA_ustate (s : State) (v : Byte) :
    (s.produceA v).ustate = s.ustate := rfl
@[simp] theorem State.produceA_halted (s : State) (v : Byte) :
    (s.produceA v).halted = s.halted := rfl
@[simp] theorem State.produceA_cycle (s : State) (v : Byte) :
    (s.produceA v).cycle = s.cycle := rfl
@[simp] theorem State.produceA_timeline (s : State) (v : Byte) :
    (s.produceA v).timeline = s.timeline := rfl
@[simp] theorem State.produceA_events (s : State) (v : Byte) :
    (s.produceA v).events = s.events := rfl
@[simp] theorem State.produceA_resetDone (s : State) (v : Byte) :
    (s.produceA v).resetDone = s.resetDone := rfl

/-! ### `produceB` -/

@[simp] theorem State.produceB_a (s : State) (v : Byte) :
    (s.produceB v).a = s.a := rfl
@[simp] theorem State.produceB_b (s : State) (v : Byte) :
    (s.produceB v).b = v := rfl
@[simp] theorem State.produceB_x (s : State) (v : Byte) :
    (s.produceB v).x = s.x := rfl
@[simp] theorem State.produceB_pc (s : State) (v : Byte) :
    (s.produceB v).pc = s.pc := rfl
@[simp] theorem State.produceB_sp (s : State) (v : Byte) :
    (s.produceB v).sp = s.sp := rfl
@[simp] theorem State.produceB_flags (s : State) (v : Byte) :
    (s.produceB v).flags = setZN v s.flags := rfl
@[simp] theorem State.produceB_mem (s : State) (v : Byte) :
    (s.produceB v).mem = s.mem := rfl
@[simp] theorem State.produceB_opcode (s : State) (v : Byte) :
    (s.produceB v).opcode = s.opcode := rfl
@[simp] theorem State.produceB_operand (s : State) (v : Byte) :
    (s.produceB v).operand = s.operand := rfl
@[simp] theorem State.produceB_ustate (s : State) (v : Byte) :
    (s.produceB v).ustate = s.ustate := rfl
@[simp] theorem State.produceB_halted (s : State) (v : Byte) :
    (s.produceB v).halted = s.halted := rfl
@[simp] theorem State.produceB_cycle (s : State) (v : Byte) :
    (s.produceB v).cycle = s.cycle := rfl
@[simp] theorem State.produceB_timeline (s : State) (v : Byte) :
    (s.produceB v).timeline = s.timeline := rfl
@[simp] theorem State.produceB_events (s : State) (v : Byte) :
    (s.produceB v).events = s.events := rfl
@[simp] theorem State.produceB_resetDone (s : State) (v : Byte) :
    (s.produceB v).resetDone = s.resetDone := rfl

/-! ### `produceX` -/

@[simp] theorem State.produceX_a (s : State) (v : Byte) :
    (s.produceX v).a = s.a := rfl
@[simp] theorem State.produceX_b (s : State) (v : Byte) :
    (s.produceX v).b = s.b := rfl
@[simp] theorem State.produceX_x (s : State) (v : Byte) :
    (s.produceX v).x = v := rfl
@[simp] theorem State.produceX_pc (s : State) (v : Byte) :
    (s.produceX v).pc = s.pc := rfl
@[simp] theorem State.produceX_sp (s : State) (v : Byte) :
    (s.produceX v).sp = s.sp := rfl
@[simp] theorem State.produceX_flags (s : State) (v : Byte) :
    (s.produceX v).flags = setZN v s.flags := rfl
@[simp] theorem State.produceX_mem (s : State) (v : Byte) :
    (s.produceX v).mem = s.mem := rfl
@[simp] theorem State.produceX_opcode (s : State) (v : Byte) :
    (s.produceX v).opcode = s.opcode := rfl
@[simp] theorem State.produceX_operand (s : State) (v : Byte) :
    (s.produceX v).operand = s.operand := rfl
@[simp] theorem State.produceX_ustate (s : State) (v : Byte) :
    (s.produceX v).ustate = s.ustate := rfl
@[simp] theorem State.produceX_halted (s : State) (v : Byte) :
    (s.produceX v).halted = s.halted := rfl
@[simp] theorem State.produceX_cycle (s : State) (v : Byte) :
    (s.produceX v).cycle = s.cycle := rfl
@[simp] theorem State.produceX_timeline (s : State) (v : Byte) :
    (s.produceX v).timeline = s.timeline := rfl
@[simp] theorem State.produceX_events (s : State) (v : Byte) :
    (s.produceX v).events = s.events := rfl
@[simp] theorem State.produceX_resetDone (s : State) (v : Byte) :
    (s.produceX v).resetDone = s.resetDone := rfl

/-! ### `produceArith` -/

@[simp] theorem State.produceArith_a (s : State) (r : Byte × Byte) :
    (s.produceArith r).a = r.1 := rfl
@[simp] theorem State.produceArith_b (s : State) (r : Byte × Byte) :
    (s.produceArith r).b = s.b := rfl
@[simp] theorem State.produceArith_x (s : State) (r : Byte × Byte) :
    (s.produceArith r).x = s.x := rfl
@[simp] theorem State.produceArith_pc (s : State) (r : Byte × Byte) :
    (s.produceArith r).pc = s.pc := rfl
@[simp] theorem State.produceArith_sp (s : State) (r : Byte × Byte) :
    (s.produceArith r).sp = s.sp := rfl
@[simp] theorem State.produceArith_flags (s : State) (r : Byte × Byte) :
    (s.produceArith r).flags = r.2 := rfl
@[simp] theorem State.produceArith_mem (s : State) (r : Byte × Byte) :
    (s.produceArith r).mem = s.mem := rfl
@[simp] theorem State.produceArith_opcode (s : State) (r : Byte × Byte) :
    (s.produceArith r).opcode = s.opcode := rfl
@[simp] theorem State.produceArith_operand (s : State) (r : Byte × Byte) :
    (s.produceArith r).operand = s.operand := rfl
@[simp] theorem State.produceArith_ustate (s : State) (r : Byte × Byte) :
    (s.produceArith r).ustate = s.ustate := rfl
@[simp] theorem State.produceArith_halted (s : State) (r : Byte × Byte) :
    (s.produceArith r).halted = s.halted := rfl
@[simp] theorem State.produceArith_cycle (s : State) (r : Byte × Byte) :
    (s.produceArith r).cycle = s.cycle := rfl
@[simp] theorem State.produceArith_timeline (s : State) (r : Byte × Byte) :
    (s.produceArith r).timeline = s.timeline := rfl
@[simp] theorem State.produceArith_events (s : State) (r : Byte × Byte) :
    (s.produceArith r).events = s.events := rfl
@[simp] theorem State.produceArith_resetDone (s : State) (r : Byte × Byte) :
    (s.produceArith r).resetDone = s.resetDone := rfl

/-! ### `loadA` -/

@[simp] theorem State.loadA_a (s : State) (ea : Addr) :
    (s.loadA ea).a = s.mem.read ea := rfl
@[simp] theorem State.loadA_b (s : State) (ea : Addr) :
    (s.loadA ea).b = s.b := rfl
@[simp] theorem State.loadA_x (s : State) (ea : Addr) :
    (s.loadA ea).x = s.x := rfl
@[simp] theorem State.loadA_pc (s : State) (ea : Addr) :
    (s.loadA ea).pc = s.pc := rfl
@[simp] theorem State.loadA_sp (s : State) (ea : Addr) :
    (s.loadA ea).sp = s.sp := rfl
@[simp] theorem State.loadA_flags (s : State) (ea : Addr) :
    (s.loadA ea).flags = setZN (s.mem.read ea) s.flags := rfl
@[simp] theorem State.loadA_mem (s : State) (ea : Addr) :
    (s.loadA ea).mem = s.mem := rfl
@[simp] theorem State.loadA_opcode (s : State) (ea : Addr) :
    (s.loadA ea).opcode = s.opcode := rfl
@[simp] theorem State.loadA_operand (s : State) (ea : Addr) :
    (s.loadA ea).operand = s.operand := rfl
@[simp] theorem State.loadA_ustate (s : State) (ea : Addr) :
    (s.loadA ea).ustate = s.ustate := rfl
@[simp] theorem State.loadA_halted (s : State) (ea : Addr) :
    (s.loadA ea).halted = s.halted := rfl
@[simp] theorem State.loadA_cycle (s : State) (ea : Addr) :
    (s.loadA ea).cycle = s.cycle := rfl
@[simp] theorem State.loadA_timeline (s : State) (ea : Addr) :
    (s.loadA ea).timeline = s.timeline := rfl
@[simp] theorem State.loadA_events (s : State) (ea : Addr) :
    (s.loadA ea).events = s.events ++ [⟨s.cycle, s.ustate, .read, ea, s.mem.read ea, .loadData⟩] := rfl
@[simp] theorem State.loadA_resetDone (s : State) (ea : Addr) :
    (s.loadA ea).resetDone = s.resetDone := rfl

/-! ### `storeA` -/

@[simp] theorem State.storeA_a (s : State) (ea : Addr) :
    (s.storeA ea).a = s.a := rfl
@[simp] theorem State.storeA_b (s : State) (ea : Addr) :
    (s.storeA ea).b = s.b := rfl
@[simp] theorem State.storeA_x (s : State) (ea : Addr) :
    (s.storeA ea).x = s.x := rfl
@[simp] theorem State.storeA_pc (s : State) (ea : Addr) :
    (s.storeA ea).pc = s.pc := rfl
@[simp] theorem State.storeA_sp (s : State) (ea : Addr) :
    (s.storeA ea).sp = s.sp := rfl
@[simp] theorem State.storeA_flags (s : State) (ea : Addr) :
    (s.storeA ea).flags = s.flags := rfl
@[simp] theorem State.storeA_mem (s : State) (ea : Addr) :
    (s.storeA ea).mem = s.mem.write ea s.a := rfl
@[simp] theorem State.storeA_opcode (s : State) (ea : Addr) :
    (s.storeA ea).opcode = s.opcode := rfl
@[simp] theorem State.storeA_operand (s : State) (ea : Addr) :
    (s.storeA ea).operand = s.operand := rfl
@[simp] theorem State.storeA_ustate (s : State) (ea : Addr) :
    (s.storeA ea).ustate = s.ustate := rfl
@[simp] theorem State.storeA_halted (s : State) (ea : Addr) :
    (s.storeA ea).halted = s.halted := rfl
@[simp] theorem State.storeA_cycle (s : State) (ea : Addr) :
    (s.storeA ea).cycle = s.cycle := rfl
@[simp] theorem State.storeA_timeline (s : State) (ea : Addr) :
    (s.storeA ea).timeline = s.timeline := rfl
@[simp] theorem State.storeA_events (s : State) (ea : Addr) :
    (s.storeA ea).events = s.events ++ [⟨s.cycle, s.ustate, .write, ea, s.a, .storeData⟩] := rfl
@[simp] theorem State.storeA_resetDone (s : State) (ea : Addr) :
    (s.storeA ea).resetDone = s.resetDone := rfl

/-! ### `jumpIf` -/

@[simp] theorem State.jumpIf_a (s : State) (c : Bool) (target : Addr) :
    (s.jumpIf c target).a = s.a := rfl
@[simp] theorem State.jumpIf_b (s : State) (c : Bool) (target : Addr) :
    (s.jumpIf c target).b = s.b := rfl
@[simp] theorem State.jumpIf_x (s : State) (c : Bool) (target : Addr) :
    (s.jumpIf c target).x = s.x := rfl
@[simp] theorem State.jumpIf_pc (s : State) (c : Bool) (target : Addr) :
    (s.jumpIf c target).pc = if c then target else s.pc := rfl
@[simp] theorem State.jumpIf_sp (s : State) (c : Bool) (target : Addr) :
    (s.jumpIf c target).sp = s.sp := rfl
@[simp] theorem State.jumpIf_flags (s : State) (c : Bool) (target : Addr) :
    (s.jumpIf c target).flags = s.flags := rfl
@[simp] theorem State.jumpIf_mem (s : State) (c : Bool) (target : Addr) :
    (s.jumpIf c target).mem = s.mem := rfl
@[simp] theorem State.jumpIf_opcode (s : State) (c : Bool) (target : Addr) :
    (s.jumpIf c target).opcode = s.opcode := rfl
@[simp] theorem State.jumpIf_operand (s : State) (c : Bool) (target : Addr) :
    (s.jumpIf c target).operand = s.operand := rfl
@[simp] theorem State.jumpIf_ustate (s : State) (c : Bool) (target : Addr) :
    (s.jumpIf c target).ustate = s.ustate := rfl
@[simp] theorem State.jumpIf_halted (s : State) (c : Bool) (target : Addr) :
    (s.jumpIf c target).halted = s.halted := rfl
@[simp] theorem State.jumpIf_cycle (s : State) (c : Bool) (target : Addr) :
    (s.jumpIf c target).cycle = s.cycle := rfl
@[simp] theorem State.jumpIf_timeline (s : State) (c : Bool) (target : Addr) :
    (s.jumpIf c target).timeline = s.timeline := rfl
@[simp] theorem State.jumpIf_events (s : State) (c : Bool) (target : Addr) :
    (s.jumpIf c target).events = s.events := rfl
@[simp] theorem State.jumpIf_resetDone (s : State) (c : Bool) (target : Addr) :
    (s.jumpIf c target).resetDone = s.resetDone := rfl

/-! ### `halt` -/

@[simp] theorem State.halt_a (s : State) :
    (s.halt).a = s.a := rfl
@[simp] theorem State.halt_b (s : State) :
    (s.halt).b = s.b := rfl
@[simp] theorem State.halt_x (s : State) :
    (s.halt).x = s.x := rfl
@[simp] theorem State.halt_pc (s : State) :
    (s.halt).pc = s.pc := rfl
@[simp] theorem State.halt_sp (s : State) :
    (s.halt).sp = s.sp := rfl
@[simp] theorem State.halt_flags (s : State) :
    (s.halt).flags = s.flags := rfl
@[simp] theorem State.halt_mem (s : State) :
    (s.halt).mem = s.mem := rfl
@[simp] theorem State.halt_opcode (s : State) :
    (s.halt).opcode = s.opcode := rfl
@[simp] theorem State.halt_operand (s : State) :
    (s.halt).operand = s.operand := rfl
@[simp] theorem State.halt_ustate (s : State) :
    (s.halt).ustate = MicroState.halted := rfl
@[simp] theorem State.halt_halted (s : State) :
    (s.halt).halted = true := rfl
@[simp] theorem State.halt_cycle (s : State) :
    (s.halt).cycle = s.cycle := rfl
@[simp] theorem State.halt_timeline (s : State) :
    (s.halt).timeline = s.timeline := rfl
@[simp] theorem State.halt_events (s : State) :
    (s.halt).events = s.events := rfl
@[simp] theorem State.halt_resetDone (s : State) :
    (s.halt).resetDone = s.resetDone := rfl

/-! ### `emitFrame` -/

@[simp] theorem State.emitFrame_a (s : State) (c : Nat) :
    (s.emitFrame c).a = s.a := rfl
@[simp] theorem State.emitFrame_b (s : State) (c : Nat) :
    (s.emitFrame c).b = s.b := rfl
@[simp] theorem State.emitFrame_x (s : State) (c : Nat) :
    (s.emitFrame c).x = s.x := rfl
@[simp] theorem State.emitFrame_pc (s : State) (c : Nat) :
    (s.emitFrame c).pc = s.pc := rfl
@[simp] theorem State.emitFrame_sp (s : State) (c : Nat) :
    (s.emitFrame c).sp = s.sp := rfl
@[simp] theorem State.emitFrame_flags (s : State) (c : Nat) :
    (s.emitFrame c).flags = s.flags := rfl
@[simp] theorem State.emitFrame_mem (s : State) (c : Nat) :
    (s.emitFrame c).mem = s.mem := rfl
@[simp] theorem State.emitFrame_opcode (s : State) (c : Nat) :
    (s.emitFrame c).opcode = s.opcode := rfl
@[simp] theorem State.emitFrame_operand (s : State) (c : Nat) :
    (s.emitFrame c).operand = s.operand := rfl
@[simp] theorem State.emitFrame_ustate (s : State) (c : Nat) :
    (s.emitFrame c).ustate = s.ustate := rfl
@[simp] theorem State.emitFrame_halted (s : State) (c : Nat) :
    (s.emitFrame c).halted = s.halted := rfl
@[simp] theorem State.emitFrame_cycle (s : State) (c : Nat) :
    (s.emitFrame c).cycle = s.cycle + 1 := rfl
@[simp] theorem State.emitFrame_timeline (s : State) (c : Nat) :
    (s.emitFrame c).timeline = s.timeline ++ [s.frame c] := rfl
@[simp] theorem State.emitFrame_events (s : State) (c : Nat) :
    (s.emitFrame c).events = s.events := rfl
@[simp] theorem State.emitFrame_resetDone (s : State) (c : Nat) :
    (s.emitFrame c).resetDone = s.resetDone := rfl

/-! ### `poke` -/

@[simp] theorem State.poke_a (s : State) (addr : Addr) (v : Byte) :
    (s.poke addr v).a = s.a := rfl
@[simp] theorem State.poke_b (s : State) (addr : Addr) (v : Byte) :
    (s.poke addr v).b = s.b := rfl
@[simp] theorem State.poke_x (s : State) (addr : Addr) (v : Byte) :
    (s.poke addr v).x = s.x := rfl
@[simp] theorem State.poke_pc (s : State) (addr : Addr) (v : Byte) :
    (s.poke addr v).pc = s.pc := rfl
@[simp] theorem State.poke_sp (s : State) (addr : Addr) (v : Byte) :
    (s.poke addr v).sp = s.sp := rfl
@[simp] theorem State.poke_flags (s : State) (addr : Addr) (v : Byte) :
    (s.poke addr v).flags = s.flags := rfl
@[simp] theorem State.poke_mem (s : State) (addr : Addr) (v : Byte) :
    (s.poke addr v).mem = s.mem.write addr v := rfl
@[simp] theorem State.poke_opcode (s : State) (addr : Addr) (v : Byte) :
    (s.poke addr v).opcode = s.opcode := rfl
@[simp] theorem State.poke_operand (s : State) (addr : Addr) (v : Byte) :
    (s.poke addr v).operand = s.operand := rfl
@[simp] theorem State.poke_ustate (s : State) (addr : Addr) (v : Byte) :
    (s.poke addr v).ustate = s.ustate := rfl
@[simp] theorem State.poke_halted (s : State) (addr : Addr) (v : Byte) :
    (s.poke addr v).halted = s.halted := rfl
@[simp] theorem State.poke_cycle (s : State) (addr : Addr) (v : Byte) :
    (s.poke addr v).cycle = s.cycle := rfl
@[simp] theorem State.poke_timeline (s : State) (addr : Addr) (v : Byte) :
    (s.poke addr v).timeline = s.timeline := rfl
@[simp] theorem State.poke_events (s : State) (addr : Addr) (v : Byte) :
    (s.poke addr v).events = s.events := rfl
@[simp] theorem State.poke_resetDone (s : State) (addr : Addr) (v : Byte) :
    (s.poke addr v).resetDone = s.resetDone := rfl

/-! ### `withFetchWord` -/

@[simp] theorem State.withFetchWord_a (s : State) (nbits w : Nat) :
    (s.withFetchWord nbits w).a = s.a := rfl
@[simp] theorem State.withFetchWord_b (s : State) (nbits w : Nat) :
    (s.withFetchWord nbits w).b = s.b := rfl
@[simp] theorem State.withFetchWord_x (s : State) (nbits w : Nat) :
    (s.withFetchWord nbits w).x = s.x := rfl
@[simp] theorem State.withFetchWord_pc (s : State) (nbits w : Nat) :
    (s.withFetchWord nbits w).pc = s.pc := rfl
@[simp] theorem State.withFetchWord_sp (s : State) (nbits w : Nat) :
    (s.withFetchWord nbits w).sp = s.sp := rfl
@[simp] theorem State.withFetchWord_flags (s : State) (nbits w : Nat) :
    (s.withFetchWord nbits w).flags = s.flags := rfl
@[simp] theorem State.withFetchWord_mem (s : State) (nbits w : Nat) :
    (s.withFetchWord nbits w).mem = s.mem.writeBytes s.pc (tableWordBytes nbits w) := rfl
@[simp] theorem State.withFetchWord_opcode (s : State) (nbits w : Nat) :
    (s.withFetchWord nbits w).opcode = s.opcode := rfl
@[simp] theorem State.withFetchWord_operand (s : State) (nbits w : Nat) :
    (s.withFetchWord nbits w).operand = s.operand := rfl
@[simp] theorem State.withFetchWord_ustate (s : State) (nbits w : Nat) :
    (s.withFetchWord nbits w).ustate = MicroState.fetchOp := rfl
@[simp] theorem State.withFetchWord_halted (s : State) (nbits w : Nat) :
    (s.withFetchWord nbits w).halted = false := rfl
@[simp] theorem State.withFetchWord_cycle (s : State) (nbits w : Nat) :
    (s.withFetchWord nbits w).cycle = s.cycle := rfl
@[simp] theorem State.withFetchWord_timeline (s : State) (nbits w : Nat) :
    (s.withFetchWord nbits w).timeline = s.timeline := rfl
@[simp] theorem State.withFetchWord_events (s : State) (nbits w : Nat) :
    (s.withFetchWord nbits w).events = s.events := rfl
@[simp] theorem State.withFetchWord_resetDone (s : State) (nbits w : Nat) :
    (s.withFetchWord nbits w).resetDone = true := rfl

/-! ### `resetAt` -/

@[simp] theorem State.resetAt_a (s : State) (pc : Addr) :
    (s.resetAt pc).a = 0#8 := rfl
@[simp] theorem State.resetAt_b (s : State) (pc : Addr) :
    (s.resetAt pc).b = 0#8 := rfl
@[simp] theorem State.resetAt_x (s : State) (pc : Addr) :
    (s.resetAt pc).x = 0#8 := rfl
@[simp] theorem State.resetAt_pc (s : State) (pc : Addr) :
    (s.resetAt pc).pc = pc := rfl
@[simp] theorem State.resetAt_sp (s : State) (pc : Addr) :
    (s.resetAt pc).sp = Config.spReset := rfl
@[simp] theorem State.resetAt_flags (s : State) (pc : Addr) :
    (s.resetAt pc).flags = 0#8 := rfl
@[simp] theorem State.resetAt_mem (s : State) (pc : Addr) :
    (s.resetAt pc).mem = s.mem := rfl
@[simp] theorem State.resetAt_opcode (s : State) (pc : Addr) :
    (s.resetAt pc).opcode = 0#8 := rfl
@[simp] theorem State.resetAt_operand (s : State) (pc : Addr) :
    (s.resetAt pc).operand = 0#16 := rfl
@[simp] theorem State.resetAt_ustate (s : State) (pc : Addr) :
    (s.resetAt pc).ustate = MicroState.fetchOp := rfl
@[simp] theorem State.resetAt_halted (s : State) (pc : Addr) :
    (s.resetAt pc).halted = false := rfl
@[simp] theorem State.resetAt_cycle (s : State) (pc : Addr) :
    (s.resetAt pc).cycle = 0 := rfl
@[simp] theorem State.resetAt_timeline (s : State) (pc : Addr) :
    (s.resetAt pc).timeline = [] := rfl
@[simp] theorem State.resetAt_events (s : State) (pc : Addr) :
    (s.resetAt pc).events = [] := rfl
@[simp] theorem State.resetAt_resetDone (s : State) (pc : Addr) :
    (s.resetAt pc).resetDone = true := rfl

/-! ### The byte an access answers -/

@[simp] theorem State.memRead_fst (s : State) (addr : Addr) (n : Note) : (s.memRead addr n).1 = s.mem.read addr := rfl

@[simp] theorem State.fetchByte_fst (s : State) (n : Note) : (s.fetchByte n).1 = s.mem.read s.pc := rfl

/-! ### `microFetchOp` -/

@[simp] theorem microFetchOp_a (s : State) :
    (microFetchOp s).a = s.a := rfl
@[simp] theorem microFetchOp_b (s : State) :
    (microFetchOp s).b = s.b := rfl
@[simp] theorem microFetchOp_x (s : State) :
    (microFetchOp s).x = s.x := rfl
@[simp] theorem microFetchOp_pc (s : State) :
    (microFetchOp s).pc = s.pc + 1#16 := rfl
@[simp] theorem microFetchOp_sp (s : State) :
    (microFetchOp s).sp = s.sp := rfl
@[simp] theorem microFetchOp_flags (s : State) :
    (microFetchOp s).flags = s.flags := rfl
@[simp] theorem microFetchOp_mem (s : State) :
    (microFetchOp s).mem = s.mem := rfl
@[simp] theorem microFetchOp_opcode (s : State) :
    (microFetchOp s).opcode = s.mem.read s.pc := rfl
@[simp] theorem microFetchOp_operand (s : State) :
    (microFetchOp s).operand = s.operand := rfl
@[simp] theorem microFetchOp_ustate (s : State) :
    (microFetchOp s).ustate = MicroState.decode := rfl
@[simp] theorem microFetchOp_halted (s : State) :
    (microFetchOp s).halted = s.halted := rfl
@[simp] theorem microFetchOp_cycle (s : State) :
    (microFetchOp s).cycle = s.cycle := rfl
@[simp] theorem microFetchOp_timeline (s : State) :
    (microFetchOp s).timeline = s.timeline := rfl
@[simp] theorem microFetchOp_events (s : State) :
    (microFetchOp s).events = s.events ++ [⟨s.cycle, s.ustate, .read, s.pc, s.mem.read s.pc, .fetchOpcode⟩] := rfl
@[simp] theorem microFetchOp_resetDone (s : State) :
    (microFetchOp s).resetDone = s.resetDone := rfl

/-! ### `microDecode` -/

@[simp] theorem microDecode_a (s : State) :
    (microDecode s).a = s.a := rfl
@[simp] theorem microDecode_b (s : State) :
    (microDecode s).b = s.b := rfl
@[simp] theorem microDecode_x (s : State) :
    (microDecode s).x = s.x := rfl
@[simp] theorem microDecode_pc (s : State) :
    (microDecode s).pc = s.pc := rfl
@[simp] theorem microDecode_sp (s : State) :
    (microDecode s).sp = s.sp := rfl
@[simp] theorem microDecode_flags (s : State) :
    (microDecode s).flags = s.flags := rfl
@[simp] theorem microDecode_mem (s : State) :
    (microDecode s).mem = s.mem := rfl
@[simp] theorem microDecode_opcode (s : State) :
    (microDecode s).opcode = s.opcode := rfl
@[simp] theorem microDecode_operand (s : State) :
    (microDecode s).operand = s.operand := rfl
@[simp] theorem microDecode_halted (s : State) :
    (microDecode s).halted = s.halted := rfl
@[simp] theorem microDecode_cycle (s : State) :
    (microDecode s).cycle = s.cycle := rfl
@[simp] theorem microDecode_timeline (s : State) :
    (microDecode s).timeline = s.timeline := rfl
@[simp] theorem microDecode_events (s : State) :
    (microDecode s).events = s.events := rfl
@[simp] theorem microDecode_resetDone (s : State) :
    (microDecode s).resetDone = s.resetDone := rfl

/-! ### `microFetchOpLo` -/

@[simp] theorem microFetchOpLo_a (s : State) :
    (microFetchOpLo s).a = s.a := rfl
@[simp] theorem microFetchOpLo_b (s : State) :
    (microFetchOpLo s).b = s.b := rfl
@[simp] theorem microFetchOpLo_x (s : State) :
    (microFetchOpLo s).x = s.x := rfl
@[simp] theorem microFetchOpLo_pc (s : State) :
    (microFetchOpLo s).pc = s.pc + 1#16 := rfl
@[simp] theorem microFetchOpLo_sp (s : State) :
    (microFetchOpLo s).sp = s.sp := rfl
@[simp] theorem microFetchOpLo_flags (s : State) :
    (microFetchOpLo s).flags = s.flags := rfl
@[simp] theorem microFetchOpLo_mem (s : State) :
    (microFetchOpLo s).mem = s.mem := rfl
@[simp] theorem microFetchOpLo_opcode (s : State) :
    (microFetchOpLo s).opcode = s.opcode := rfl
@[simp] theorem microFetchOpLo_operand (s : State) :
    (microFetchOpLo s).operand = setOperandLo s.operand (s.mem.read s.pc) := rfl
@[simp] theorem microFetchOpLo_ustate (s : State) :
    (microFetchOpLo s).ustate = if classOf s.opcode = .immediate then MicroState.execute else MicroState.fetchOpHi := rfl
@[simp] theorem microFetchOpLo_halted (s : State) :
    (microFetchOpLo s).halted = s.halted := rfl
@[simp] theorem microFetchOpLo_cycle (s : State) :
    (microFetchOpLo s).cycle = s.cycle := rfl
@[simp] theorem microFetchOpLo_timeline (s : State) :
    (microFetchOpLo s).timeline = s.timeline := rfl
@[simp] theorem microFetchOpLo_events (s : State) :
    (microFetchOpLo s).events = s.events ++ [⟨s.cycle, s.ustate, .read, s.pc, s.mem.read s.pc, .fetchOperandLo⟩] := rfl
@[simp] theorem microFetchOpLo_resetDone (s : State) :
    (microFetchOpLo s).resetDone = s.resetDone := rfl

/-! ### `microFetchOpHi` -/

@[simp] theorem microFetchOpHi_a (s : State) :
    (microFetchOpHi s).a = s.a := rfl
@[simp] theorem microFetchOpHi_b (s : State) :
    (microFetchOpHi s).b = s.b := rfl
@[simp] theorem microFetchOpHi_x (s : State) :
    (microFetchOpHi s).x = s.x := rfl
@[simp] theorem microFetchOpHi_pc (s : State) :
    (microFetchOpHi s).pc = s.pc + 1#16 := rfl
@[simp] theorem microFetchOpHi_sp (s : State) :
    (microFetchOpHi s).sp = s.sp := rfl
@[simp] theorem microFetchOpHi_flags (s : State) :
    (microFetchOpHi s).flags = s.flags := rfl
@[simp] theorem microFetchOpHi_mem (s : State) :
    (microFetchOpHi s).mem = s.mem := rfl
@[simp] theorem microFetchOpHi_opcode (s : State) :
    (microFetchOpHi s).opcode = s.opcode := rfl
@[simp] theorem microFetchOpHi_operand (s : State) :
    (microFetchOpHi s).operand = setOperandHi s.operand (s.mem.read s.pc) := rfl
@[simp] theorem microFetchOpHi_ustate (s : State) :
    (microFetchOpHi s).ustate = MicroState.execute := rfl
@[simp] theorem microFetchOpHi_halted (s : State) :
    (microFetchOpHi s).halted = s.halted := rfl
@[simp] theorem microFetchOpHi_cycle (s : State) :
    (microFetchOpHi s).cycle = s.cycle := rfl
@[simp] theorem microFetchOpHi_timeline (s : State) :
    (microFetchOpHi s).timeline = s.timeline := rfl
@[simp] theorem microFetchOpHi_events (s : State) :
    (microFetchOpHi s).events = s.events ++ [⟨s.cycle, s.ustate, .read, s.pc, s.mem.read s.pc, .fetchOperandHi⟩] := rfl
@[simp] theorem microFetchOpHi_resetDone (s : State) :
    (microFetchOpHi s).resetDone = s.resetDone := rfl

/-! ### `microWriteBack` -/

@[simp] theorem microWriteBack_a (s : State) :
    (microWriteBack s).a = s.a := rfl
@[simp] theorem microWriteBack_b (s : State) :
    (microWriteBack s).b = s.b := rfl
@[simp] theorem microWriteBack_x (s : State) :
    (microWriteBack s).x = s.x := rfl
@[simp] theorem microWriteBack_pc (s : State) :
    (microWriteBack s).pc = s.pc := rfl
@[simp] theorem microWriteBack_sp (s : State) :
    (microWriteBack s).sp = s.sp := rfl
@[simp] theorem microWriteBack_flags (s : State) :
    (microWriteBack s).flags = s.flags := rfl
@[simp] theorem microWriteBack_mem (s : State) :
    (microWriteBack s).mem = s.mem := rfl
@[simp] theorem microWriteBack_opcode (s : State) :
    (microWriteBack s).opcode = s.opcode := rfl
@[simp] theorem microWriteBack_operand (s : State) :
    (microWriteBack s).operand = s.operand := rfl
@[simp] theorem microWriteBack_ustate (s : State) :
    (microWriteBack s).ustate = MicroState.fetchOp := rfl
@[simp] theorem microWriteBack_halted (s : State) :
    (microWriteBack s).halted = s.halted := rfl
@[simp] theorem microWriteBack_cycle (s : State) :
    (microWriteBack s).cycle = s.cycle := rfl
@[simp] theorem microWriteBack_timeline (s : State) :
    (microWriteBack s).timeline = s.timeline := rfl
@[simp] theorem microWriteBack_events (s : State) :
    (microWriteBack s).events = s.events := rfl
@[simp] theorem microWriteBack_resetDone (s : State) :
    (microWriteBack s).resetDone = s.resetDone := rfl

theorem microDecode_ustate (s : State) :
    (microDecode s).ustate = if (classOf s.opcode).operandBytes = 0 then MicroState.execute else MicroState.fetchOpLo := by
  unfold microDecode
  cases classOf s.opcode <;> rfl

end Sys2Proof.Machine
end

