-- ==== Sys2Proof/Laws/Engine.lean ====
section
/-! SUPPORT. What each shared operation of the engine can do, said once: sequencing, `exec`, `stepCycle`,
`toBoundary`, and the requests. -/

namespace Sys2Proof.Machine

/-! ### Sequencing -/

@[simp] theorem andThen_next (s : State) (k : State → Host.Outcome State Fault Refusal) :
    andThen (.next s) k = k s := rfl

@[simp] theorem andThen_fault (r : Fault) (k : State → Host.Outcome State Fault Refusal) :
    andThen (.fault r) k = .fault r := rfl

@[simp] theorem andThen_refused (r : Refusal) (k : State → Host.Outcome State Fault Refusal) :
    andThen (.refused r) k = .refused r := rfl

/-- What `andThen` answers next: both of its operations answered next. -/
theorem andThen_eq_next (o : Host.Outcome State Fault Refusal) (k : State → Host.Outcome State Fault Refusal)
    (t : State) : andThen o k = .next t ↔ ∃ s, o = .next s ∧ k s = .next t := by
  cases o <;> simp

/-! ### exec -/

/-- Every instruction completes: no meaning faults or refuses. -/
theorem exec_completes (i : Instr) (s : State) : ∃ t, exec i s = .next t := by
  cases i <;> exact ⟨_, rfl⟩

/-- An `exec` ends in WriteBack, or halted in Halted (40_microengine.md R136). -/
theorem exec_ends (i : Instr) (s t : State) (h : exec i s = .next t) :
    (t.halted = s.halted ∧ t.ustate = .writeBack) ∨ (t.halted = true ∧ t.ustate = .halted) := by
  cases i <;> cases h <;> first | exact .inl ⟨rfl, rfl⟩ | exact .inr ⟨rfl, rfl⟩

/-! ### stepCycle -/

/-- A step of a running core. -/
theorem stepCycle_running (s : State) (h : s.running) :
    stepCycle s = andThen (transition { s with events := [] }) fun t => .next (t.emitFrame s.cycle) := by
  simp [stepCycle, h.1, h.2.1, h.2.2]

/-- What a step that answers next did: nothing, halted; or one transition and its frame. -/
theorem stepCycle_next (s t : State) (h : stepCycle s = .next t) :
    s.resetDone = true ∧ ((s.halted = true ∧ t = s) ∨
      (s.running ∧ ∃ u, transition { s with events := [] } = .next u ∧ t = u.emitFrame s.cycle)) := by
  unfold stepCycle at h
  split at h
  · cases h
  · have hr : s.resetDone = true := by simp_all
    refine ⟨hr, ?_⟩
    split at h
    · exact .inl ⟨‹_›, by cases h; rfl⟩
    · have hh : s.halted = false := by simp_all
      split at h
      · cases h
      · obtain ⟨u, hu, ht⟩ := (andThen_eq_next _ _ _).1 h
        exact .inr ⟨⟨hr, hh, by simp_all⟩, u, hu, by cases ht; rfl⟩

/-- What a transition that answers next did, by the micro-state it started in (40_microengine.md R132-R138). -/
theorem transition_next (s t : State) (h : transition s = .next t) :
    (s.ustate = .fetchOp ∧ t = microFetchOp s) ∨ (s.ustate = .decode ∧ t = microDecode s) ∨
    (s.ustate = .fetchOpLo ∧ t = microFetchOpLo s) ∨ (s.ustate = .fetchOpHi ∧ t = microFetchOpHi s) ∨
    (s.ustate = .execute ∧ exec (instrOf s.opcode s.operand) s = .next t) ∨
    (s.ustate = .writeBack ∧ t = microWriteBack s) := by
  unfold transition at h
  split at h <;> first | (cases h; simp_all) | simp_all [microExecute]

/-! ### toBoundary -/

@[simp] theorem toBoundary_zero (s : State) : toBoundary 0 s = .next s := rfl

theorem toBoundary_succ (n : Nat) (s : State) :
    toBoundary (n + 1) s = andThen (stepCycle s) fun t => if t.atBoundary then .next t else toBoundary n t := rfl

/-! ### Stepping a property -/

/-- A property that `stepCycle` keeps, `toBoundary` keeps. -/
theorem toBoundary_keeps (P : State → Prop) (hP : ∀ s t, P s → stepCycle s = .next t → P t) (n : Nat) (s t : State)
    (hs : P s) (h : toBoundary n s = .next t) : P t := by
  induction n generalizing s with
  | zero => cases h; exact hs
  | succ n ih =>
    obtain ⟨u, hu, ht⟩ := (andThen_eq_next _ _ _).1 h
    by_cases hb : u.atBoundary
    · rw [if_pos hb] at ht; exact Host.Outcome.next.inj ht ▸ hP s u hs hu
    · rw [if_neg hb] at ht; exact ih u (hP s u hs hu) ht

/-- A property that `stepCycle` keeps, `step` keeps. -/
theorem step_keeps (P : State → Prop) (hP : ∀ s t, P s → stepCycle s = .next t → P t) (s t : State)
    (hs : P s) (h : step s = .next t) : P t := by
  unfold step stepInstr at h
  split at h
  · cases h
  · split at h
    · cases h; exact hs
    · obtain ⟨m, hm, ht⟩ := (andThen_eq_next _ _ _).1 h
      have hPm : P m := by
        unfold drain at hm
        split at hm
        · cases hm; exact hs
        · exact toBoundary_keeps P hP _ _ _ hs hm
      by_cases hh : m.halted = true
      · rw [if_pos hh] at ht; exact Host.Outcome.next.inj ht ▸ hPm
      · rw [if_neg hh] at ht; exact toBoundary_keeps P hP _ _ _ hPm ht

/-! ### Requests -/

/-- What a served request did to the state (10_state.md R50). -/
theorem serve_next (q : Request) (s t : State) (r : Reply) (h : serve q s = .next (t, r)) :
    (∃ pc, q = .reset pc ∧ t = s.resetAt pc) ∨ (q = .stepCycle ∧ stepCycle s = .next t) ∨
    (q = .stepInstr ∧ step s = .next t) ∨ (∃ m : Memory, t = { s with mem := m }) := by
  cases q with
  | reset pc => cases h; exact .inl ⟨pc, rfl, rfl⟩
  | stepCycle =>
    simp only [serve, silently] at h
    split at h <;> cases h
    exact .inr (.inl ⟨rfl, ‹_›⟩)
  | stepInstr =>
    simp only [serve, silently] at h
    split at h <;> cases h
    exact .inr (.inr (.inl ⟨rfl, ‹_›⟩))
  | loadProgram bytes origin =>
    cases h
    refine .inr (.inr (.inr ⟨(s.loadProgram bytes origin).2.mem, ?_⟩))
    unfold State.loadProgram
    split <;> rfl
  | write16 addr value =>
    cases h
    refine .inr (.inr (.inr ⟨(s.write16 addr value).2.mem, ?_⟩))
    unfold State.write16
    split <;> rfl
  | poke addr v => cases h; exact .inr (.inr (.inr ⟨s.mem.write addr v, rfl⟩))
  | observe => cases h; exact .inr (.inr (.inr ⟨s.mem, rfl⟩))

end Sys2Proof.Machine
end

