-- ==== Sys2Proof/Laws/PerInstr.lean ====
section
/-! SUPPORT. A statement made of every instruction as syntax, one lemma per constructor: a well-formed instruction's
encoding begins with its opcode byte and has the length that byte alone gives (30_encoding.md R100). -/

namespace Sys2Proof.Laws.EncodingLength

/-- The encoding of a well-formed instruction is its opcode byte and as many operand bytes as its class has. -/
def Statement (i : Instr) : Prop :=
  i.wf = true → (encode i).head? = some i.opcode ∧ (encode i).length = opLength i.opcode

theorem nop : Statement (.nop) := fun _ => ⟨rfl, rfl⟩

theorem ldaImm (imm : Byte) : Statement (.ldaImm imm) := fun _ => ⟨rfl, rfl⟩

theorem ldbImm (imm : Byte) : Statement (.ldbImm imm) := fun _ => ⟨rfl, rfl⟩

theorem ldaAbs (addr : Addr) : Statement (.ldaAbs addr) := fun _ => ⟨rfl, rfl⟩

theorem staAbs (addr : Addr) : Statement (.staAbs addr) := fun _ => ⟨rfl, rfl⟩

theorem addB : Statement (.addB) := fun _ => ⟨rfl, rfl⟩

theorem subB : Statement (.subB) := fun _ => ⟨rfl, rfl⟩

theorem andB : Statement (.andB) := fun _ => ⟨rfl, rfl⟩

theorem orB : Statement (.orB) := fun _ => ⟨rfl, rfl⟩

theorem xorB : Statement (.xorB) := fun _ => ⟨rfl, rfl⟩

theorem incA : Statement (.incA) := fun _ => ⟨rfl, rfl⟩

theorem decA : Statement (.decA) := fun _ => ⟨rfl, rfl⟩

theorem jmpAbs (addr : Addr) : Statement (.jmpAbs addr) := fun _ => ⟨rfl, rfl⟩

theorem jzAbs (addr : Addr) : Statement (.jzAbs addr) := fun _ => ⟨rfl, rfl⟩

theorem jnzAbs (addr : Addr) : Statement (.jnzAbs addr) := fun _ => ⟨rfl, rfl⟩

theorem ldxImm (imm : Byte) : Statement (.ldxImm imm) := fun _ => ⟨rfl, rfl⟩

theorem ldaIdx (addr : Addr) : Statement (.ldaIdx addr) := fun _ => ⟨rfl, rfl⟩

theorem staIdx (addr : Addr) : Statement (.staIdx addr) := fun _ => ⟨rfl, rfl⟩

theorem hlt : Statement (.hlt) := fun _ => ⟨rfl, rfl⟩

theorem undef (op : Byte) : Statement (.undef op) := fun h => by
  have hw : isUndefinedByte op = true := h
  exact ⟨rfl, by simp [encode, Instr.opcode, Instr.operandBytes, opLength, hw, OpClass.operandBytes]⟩

end Sys2Proof.Laws.EncodingLength
end

