-- ==== Sys2Proof/Tests/Slice0.lean ====
section
/-! SUPPORT. The model's own tests: the well-formedness smoke test, the decoding of one word of every constructor
written out from spec/30_encoding.md R106, at most two single steps an instruction with the values of
spec/95_test_vectors.md, and for every statement with hypotheses a concrete state that meets them. -/

namespace Sys2Proof.Tests

open Sys2Proof.Machine

/-- The state of an outcome that answers next. -/
def nextOf (o : Host.Outcome State Fault Refusal) : Option State :=
  match o with
  | .next s => some s
  | .fault _ => none
  | .refused _ => none

/-- Right after `reset(pc)`, with these bytes at `pc`. -/
def start (pc : Addr) (bytes : List Byte) : State :=
  { State.reset with pc := pc, mem := Memory.writeBytes [] pc bytes }

/-- What the tables of 95_test_vectors.md list: A, B, X, FLAGS, PC and `cycle` after one step. -/
def regsAfter (s : State) : Option (Byte × Byte × Byte × Byte × Addr × Nat) :=
  (nextOf (step s)).map fun t => (t.a, t.b, t.x, t.flags, t.pc, t.cycle)

/-! ### Well-formedness: the check refuses each ill-formed term (R108: the boundary bytes of its ranges) -/

theorem test_wf_refuses_defined_bytes :
    ([0x00#8, 0x10#8, 0x13#8, 0x20#8, 0x26#8, 0x30#8, 0x35#8, 0xFF#8].map fun b => (Instr.undef b).wf) =
      [false, false, false, false, false, false, false, false] := by decide

theorem test_wf_admits_undefined_bytes :
    ([0x01#8, 0x0F#8, 0x14#8, 0x1F#8, 0x27#8, 0x2F#8, 0x36#8, 0xFE#8].map fun b => (Instr.undef b).wf) =
      [true, true, true, true, true, true, true, true] := by decide

/-! ### Decoding: one word of every constructor, written out from R106; operands low byte first (R103) -/

theorem test_decode_nop : decode [0b00000000#8] = .ok (.nop, []) := by decide

theorem test_decode_ldaImm : decode [0b00010000#8, 0b00000101#8] = .ok (.ldaImm 0x05#8, []) := by decide

theorem test_decode_ldbImm : decode [0b00010001#8, 0b00000011#8] = .ok (.ldbImm 0x03#8, []) := by decide

theorem test_decode_ldaAbs : decode [0b00010010#8, 0b00000000#8, 0b00100000#8] = .ok (.ldaAbs 0x2000#16, []) := by decide

theorem test_decode_staAbs : decode [0b00010011#8, 0b00110100#8, 0b00010010#8] = .ok (.staAbs 0x1234#16, []) := by decide

theorem test_decode_addB : decode [0b00100000#8] = .ok (.addB, []) := by decide

theorem test_decode_subB : decode [0b00100001#8] = .ok (.subB, []) := by decide

theorem test_decode_andB : decode [0b00100010#8] = .ok (.andB, []) := by decide

theorem test_decode_orB : decode [0b00100011#8] = .ok (.orB, []) := by decide

theorem test_decode_xorB : decode [0b00100100#8] = .ok (.xorB, []) := by decide

theorem test_decode_incA : decode [0b00100101#8] = .ok (.incA, []) := by decide

theorem test_decode_decA : decode [0b00100110#8] = .ok (.decA, []) := by decide

theorem test_decode_jmpAbs : decode [0b00110000#8, 0b00000000#8, 0b00000001#8] = .ok (.jmpAbs 0x0100#16, []) := by decide

theorem test_decode_jzAbs : decode [0b00110001#8, 0b01000000#8, 0b00000000#8] = .ok (.jzAbs 0x0040#16, []) := by decide

theorem test_decode_jnzAbs : decode [0b00110010#8, 0b00000010#8, 0b00000000#8] = .ok (.jnzAbs 0x0002#16, []) := by decide

theorem test_decode_ldxImm : decode [0b00110011#8, 0b00000010#8] = .ok (.ldxImm 0x02#8, []) := by decide

theorem test_decode_ldaIdx : decode [0b00110100#8, 0b00000000#8, 0b00110000#8] = .ok (.ldaIdx 0x3000#16, []) := by decide

theorem test_decode_staIdx : decode [0b00110101#8, 0b11111000#8, 0b11111111#8] = .ok (.staIdx 0xFFF8#16, []) := by decide

theorem test_decode_hlt : decode [0b11111111#8] = .ok (.hlt, []) := by decide

theorem test_decode_undef : decode [0b10011001#8] = .ok (.undef 0x99#8, []) := by decide

theorem test_decode_leaves_the_rest : decode [0x99#8, 0x10#8, 0x05#8] = .ok (.undef 0x99#8, [0x10#8, 0x05#8]) := by decide

theorem test_decode_truncated : decode [0x13#8, 0x34#8] = .error (.truncated 0x13#8) := by decide

theorem test_decode_table_word : decodeTableWord 24 0x123413 = some (.staAbs 0x1234#16) := by decide

theorem test_encode_sta : encode (.staAbs 0x1234#16) = [0x13#8, 0x34#8, 0x12#8] := by decide

/-- R110: `LDA [$3000+X]`, and the spelling of an immediate. -/
theorem test_asm : (Instr.ldaIdx 0x3000#16).asm = some "LDA [$3000+X]" ∧ (Instr.ldaImm 0x05#8).asm = some "LDA #$05" := by
  decide

/-! ### One step of each instruction (95_test_vectors.md 2.1 to 2.5) -/

theorem test_add_carry : regsAfter { start 0x0100#16 [0x20#8] with a := 0xFF#8, b := 0x01#8, flags := 0x00#8 } =
    some (0x00#8, 0x01#8, 0x00#8, 0x03#8, 0x0101#16, 4) := by decide

theorem test_add_overflow : regsAfter { start 0x0100#16 [0x20#8] with a := 0x7F#8, b := 0x01#8, flags := 0x00#8 } =
    some (0x80#8, 0x01#8, 0x00#8, 0x0C#8, 0x0101#16, 4) := by decide

theorem test_sub_borrow : regsAfter { start 0x0100#16 [0x21#8] with a := 0x05#8, b := 0x10#8, flags := 0x00#8 } =
    some (0xF5#8, 0x10#8, 0x00#8, 0x04#8, 0x0101#16, 4) := by decide

theorem test_sub_overflow : regsAfter { start 0x0100#16 [0x21#8] with a := 0x80#8, b := 0x01#8, flags := 0x00#8 } =
    some (0x7F#8, 0x01#8, 0x00#8, 0x09#8, 0x0101#16, 4) := by decide

theorem test_and_keeps_cv : regsAfter { start 0x0100#16 [0x22#8] with a := 0xF0#8, b := 0x3C#8, flags := 0x09#8 } =
    some (0x30#8, 0x3C#8, 0x00#8, 0x09#8, 0x0101#16, 4) := by decide

theorem test_and_zero : regsAfter { start 0x0100#16 [0x22#8] with a := 0xAA#8, b := 0x55#8, flags := 0x00#8 } =
    some (0x00#8, 0x55#8, 0x00#8, 0x02#8, 0x0101#16, 4) := by decide

theorem test_or_negative : regsAfter { start 0x0100#16 [0x23#8] with a := 0x0F#8, b := 0x80#8, flags := 0x01#8 } =
    some (0x8F#8, 0x80#8, 0x00#8, 0x05#8, 0x0101#16, 4) := by decide

theorem test_or_zero : regsAfter { start 0x0100#16 [0x23#8] with a := 0x00#8, b := 0x00#8, flags := 0x08#8 } =
    some (0x00#8, 0x00#8, 0x00#8, 0x0A#8, 0x0101#16, 4) := by decide

theorem test_xor : regsAfter { start 0x0100#16 [0x24#8] with a := 0xAA#8, b := 0xFF#8, flags := 0x00#8 } =
    some (0x55#8, 0xFF#8, 0x00#8, 0x00#8, 0x0101#16, 4) := by decide

theorem test_xor_zero : regsAfter { start 0x0100#16 [0x24#8] with a := 0x5A#8, b := 0x5A#8, flags := 0x09#8 } =
    some (0x00#8, 0x5A#8, 0x00#8, 0x0B#8, 0x0101#16, 4) := by decide

theorem test_inc_wrap_keeps_c : regsAfter { start 0x0100#16 [0x25#8] with a := 0xFF#8, b := 0x00#8, flags := 0x01#8 } =
    some (0x00#8, 0x00#8, 0x00#8, 0x03#8, 0x0101#16, 4) := by decide

theorem test_inc_sign_keeps_v : regsAfter { start 0x0100#16 [0x25#8] with a := 0x7F#8, b := 0x00#8, flags := 0x00#8 } =
    some (0x80#8, 0x00#8, 0x00#8, 0x04#8, 0x0101#16, 4) := by decide

theorem test_dec_wrap_keeps_v : regsAfter { start 0x0100#16 [0x26#8] with a := 0x00#8, b := 0x00#8, flags := 0x08#8 } =
    some (0xFF#8, 0x00#8, 0x00#8, 0x0C#8, 0x0101#16, 4) := by decide

theorem test_dec_sign : regsAfter { start 0x0100#16 [0x26#8] with a := 0x80#8, b := 0x00#8, flags := 0x01#8 } =
    some (0x7F#8, 0x00#8, 0x00#8, 0x01#8, 0x0101#16, 4) := by decide

theorem test_ldaImm_keeps_cv : regsAfter { start 0x0100#16 [0x10#8, 0x00#8] with flags := 0x0D#8 } =
    some (0x00#8, 0x00#8, 0x00#8, 0x0B#8, 0x0102#16, 5) := by decide

theorem test_ldaImm_negative : regsAfter (start 0x0100#16 [0x10#8, 0x80#8]) =
    some (0x80#8, 0x00#8, 0x00#8, 0x04#8, 0x0102#16, 5) := by decide

theorem test_ldbImm_keeps_a : regsAfter { start 0x0100#16 [0x11#8, 0x00#8] with a := 0x55#8 } =
    some (0x55#8, 0x00#8, 0x00#8, 0x02#8, 0x0102#16, 5) := by decide

theorem test_ldbImm_negative : regsAfter (start 0x0100#16 [0x11#8, 0xC3#8]) =
    some (0x00#8, 0xC3#8, 0x00#8, 0x04#8, 0x0102#16, 5) := by decide

theorem test_ldxImm_zero : regsAfter (start 0x0100#16 [0x33#8, 0x00#8]) =
    some (0x00#8, 0x00#8, 0x00#8, 0x02#8, 0x0102#16, 5) := by decide

theorem test_ldxImm_keeps_cv : regsAfter { start 0x0100#16 [0x33#8, 0xFF#8] with flags := 0x09#8 } =
    some (0x00#8, 0x00#8, 0xFF#8, 0x0D#8, 0x0102#16, 5) := by decide

theorem test_ldaAbs_negative : regsAfter { (start 0x0100#16 [0x12#8, 0x00#8, 0x20#8]).poke 0x2000#16 0x80#8 with pc := 0x0100#16 } =
    some (0x80#8, 0x00#8, 0x00#8, 0x04#8, 0x0103#16, 6) := by decide

theorem test_ldaAbs_own_opcode : regsAfter (start 0x0100#16 [0x12#8, 0x00#8, 0x01#8]) =
    some (0x12#8, 0x00#8, 0x00#8, 0x00#8, 0x0103#16, 6) := by decide

theorem test_ldaIdx : regsAfter { (start 0x0100#16 [0x34#8, 0x00#8, 0x30#8]).poke 0x3002#16 0x05#8 with pc := 0x0100#16, x := 0x02#8 } =
    some (0x05#8, 0x00#8, 0x02#8, 0x00#8, 0x0103#16, 6) := by decide

theorem test_ldaIdx_wraps : regsAfter { (start 0x0100#16 [0x34#8, 0xFF#8, 0xFF#8]).poke 0x0001#16 0x9C#8 with pc := 0x0100#16, x := 0x02#8 } =
    some (0x9C#8, 0x00#8, 0x02#8, 0x04#8, 0x0103#16, 6) := by decide

theorem test_jmp_keeps_flags : regsAfter { start 0x0010#16 [0x30#8, 0x00#8, 0x01#8] with flags := 0x0D#8 } =
    some (0x00#8, 0x00#8, 0x00#8, 0x0D#8, 0x0100#16, 6) := by decide

theorem test_jz_taken : regsAfter { start 0x0010#16 [0x31#8, 0x40#8, 0x00#8] with flags := 0x02#8 } =
    some (0x00#8, 0x00#8, 0x00#8, 0x02#8, 0x0040#16, 6) := by decide

theorem test_jz_not_taken : regsAfter { start 0x0010#16 [0x31#8, 0x00#8, 0x00#8] with flags := 0x0D#8 } =
    some (0x00#8, 0x00#8, 0x00#8, 0x0D#8, 0x0013#16, 6) := by decide

theorem test_jnz_taken : regsAfter (start 0x0010#16 [0x32#8, 0x02#8, 0x00#8]) =
    some (0x00#8, 0x00#8, 0x00#8, 0x00#8, 0x0002#16, 6) := by decide

theorem test_jnz_not_taken : regsAfter { start 0x0010#16 [0x32#8, 0x02#8, 0x00#8] with flags := 0x02#8 } =
    some (0x00#8, 0x00#8, 0x00#8, 0x02#8, 0x0013#16, 6) := by decide

theorem test_nop_wraps : regsAfter (start 0xFFFF#16 [0x00#8]) =
    some (0x00#8, 0x00#8, 0x00#8, 0x00#8, 0x0000#16, 4) := by decide

theorem test_hlt : regsAfter { start 0x0010#16 [0xFF#8] with a := 0x12#8, b := 0x34#8, x := 0x56#8, flags := 0x0D#8 } =
    some (0x12#8, 0x34#8, 0x56#8, 0x0D#8, 0x0011#16, 3) := by decide

theorem test_undef : regsAfter { start 0x0010#16 [0x99#8, 0x10#8, 0x05#8] with a := 0x12#8, b := 0x34#8, x := 0x56#8, flags := 0x0D#8 } =
    some (0x12#8, 0x34#8, 0x56#8, 0x0D#8, 0x0011#16, 3) := by decide

/-- 2.3: the bytes stored and the Execute frame's one event. -/
theorem test_staAbs : (nextOf (step { start 0x0100#16 [0x13#8, 0x34#8, 0x12#8] with a := 0x42#8 })).map
    (fun t => (t.mem.read 0x1234#16, t.flags, (t.timeline[4]?).map TraceFrame.events)) =
    some (0x42#8, 0x00#8, some [⟨4, .execute, .write, 0x1234#16, 0x42#8, .storeData⟩]) := by decide

theorem test_staAbs_own_operand : (nextOf (step { start 0x0100#16 [0x13#8, 0x02#8, 0x01#8] with a := 0xAB#8 })).map
    (fun t => (t.mem.read 0x0102#16, t.pc)) = some (0xAB#8, 0x0103#16) := by decide

theorem test_staIdx_wraps :
    (nextOf (step { start 0x0100#16 [0x35#8, 0xF8#8, 0xFF#8] with a := 0x7E#8, x := 0x10#8 })).map
    (fun t => (t.mem.read 0x0008#16, t.pc)) = some (0x7E#8, 0x0103#16) := by decide

theorem test_staIdx : (nextOf (step { start 0x0100#16 [0x35#8, 0x00#8, 0x30#8] with a := 0x11#8, x := 0xFF#8 })).map
    (fun t => t.mem.read 0x30FF#16) = some 0x11#8 := by decide

/-- 1.6: the halt's micro-state, and the opcode in the last frame. -/
theorem test_undef_halts : (nextOf (step (start 0x0000#16 [0x99#8]))).map
    (fun t => (t.halted, t.ustate, (t.timeline.getLast?).map fun f => (f.opcode, f.ustate))) =
    some (true, .halted, some (0x99#8, .halted)) := by decide

/-! ### The engine and the host ports (95_test_vectors.md 1.2, 2.6, 2.7) -/

/-- 1.2: the first and third frames of Scenario A. -/
theorem test_scenario_a_frames : (nextOf (step (start 0x0000#16 [0x10#8, 0x05#8]))).map
    (fun t => (t.timeline[0]?, (t.timeline[2]?).map TraceFrame.events)) =
    some (some ⟨0, 0x0001#16, 0x00#8, 0x00#8, 0x00#8, 0xFF#8, 0x00#8, 0x10#8, .decode,
        [⟨0, .fetchOp, .read, 0x0000#16, 0x10#8, .fetchOpcode⟩]⟩,
      some [⟨2, .fetchOpLo, .read, 0x0001#16, 0x05#8, .fetchOperandLo⟩]) := by decide

/-- 2.6: `step_instr` in the middle of `LDA #$05` finishes it and runs `LDB #$03`. -/
theorem test_step_mid_instruction :
    ((nextOf (cycles 2 (start 0x0000#16 [0x10#8, 0x05#8, 0x11#8, 0x03#8]))).bind fun m => regsAfter m) =
    some (0x05#8, 0x03#8, 0x00#8, 0x00#8, 0x0004#16, 10) := by decide

/-- 2.6: a step while halted changes nothing. -/
theorem test_step_halted : nextOf (step State.reset.halt) = some State.reset.halt := by decide

/-- 70_reset_and_hazards.md R331. -/
theorem test_step_before_reset : step { State.reset with resetDone := false } = .refused .beforeReset := rfl

/-- 40_microengine.md R138. -/
theorem test_step_unreachable :
    stepCycle { State.reset with ustate := .memRead } = .fault (.unreachableMicroState .memRead) := rfl

theorem test_load_program_rejected :
    (State.reset.loadProgram [0x01#8, 0x02#8] 0xFFFF#16) = (.addressRangeExceeded, State.reset) := by decide

theorem test_load_program_at_the_top : ((State.reset.loadProgram [0x01#8] 0xFFFF#16).1,
    (State.reset.loadProgram [0x01#8] 0xFFFF#16).2.mem.read 0xFFFF#16) = (.ok, 0x01#8) := by decide

theorem test_write16_little_endian :
    ((State.reset.write16 0x1000#16 0xBEEF#16).2.mem.readBytes 0x1000#16 2) = [0xEF#8, 0xBE#8] := by decide

theorem test_write16_rejected : State.reset.write16 0xFFFF#16 0x1234#16 = (.addressRangeExceeded, State.reset) := by
  decide

/-- The host's word for `STA $1234`, placed and run as the first instruction after reset. -/
theorem test_fetch_word : (nextOf (step (State.reset.withFetchWord 24 0x123413))).map (fun t => (t.pc, t.cycle)) =
    some (0x0003#16, 6) := by decide

/-! ### Witnesses: for each statement with hypotheses, a state and operands that meet all of them -/

/-- A core in the middle of an instruction. -/
def mid (u : MicroState) (op : Byte) (operand : Addr) : State :=
  { State.reset with ustate := u, opcode := op, operand := operand }

theorem test_witness_DecodeOfEncodeIsIdentity :
    (Instr.undef 0x01#8).wf = true ∧ (Instr.undef 0xFE#8).wf = true ∧ (Instr.staIdx 0xFFFF#16).wf = true := by decide

theorem test_witness_DecodedBytesAreTheEncoding :
    decode [0x35#8, 0xF8#8, 0xFF#8, 0x00#8] = .ok (.staIdx 0xFFF8#16, [0x00#8]) := by decide

theorem test_witness_FlagsPreservedOutsideTheirWriters :
    (nextOf (exec .andB State.reset)).isSome = true ∧ (nextOf (exec (.staAbs 0xFFFF#16) State.reset)).isSome = true ∧
    Instr.andB ≠ .addB ∧ Instr.andB ≠ .subB := by decide

theorem test_witness_LoadImmediateRules :
    ((start 0xFFFF#16 [0x10#8, 0x00#8]).ready ∧ (start 0xFFFF#16 [0x10#8, 0x00#8]).holds [0x10#8, 0x00#8]) ∧
    ((start 0x0100#16 [0x11#8, 0x80#8]).ready ∧ (start 0x0100#16 [0x11#8, 0x80#8]).holds [0x11#8, 0x80#8]) ∧
    ((start 0x0100#16 [0x33#8, 0xFF#8]).ready ∧ (start 0x0100#16 [0x33#8, 0xFF#8]).holds [0x33#8, 0xFF#8]) ∧
    (nextOf (exec (.ldxImm 0x01#8) State.reset)).map State.x = some 0x01#8 := by decide

theorem test_witness_LoadMemoryRules :
    ((start 0xFFFE#16 [0x12#8, 0x00#8, 0x20#8]).ready ∧
      (start 0xFFFE#16 [0x12#8, 0x00#8, 0x20#8]).holds [0x12#8, 0x00#8, 0x20#8]) ∧
    ((start 0x0100#16 [0x34#8, 0xFF#8, 0xFF#8]).ready ∧
      (start 0x0100#16 [0x34#8, 0xFF#8, 0xFF#8]).holds [0x34#8, 0xFF#8, 0xFF#8]) := by decide

theorem test_witness_StoreRules :
    ((start 0xFFFF#16 [0x13#8, 0xFF#8, 0xFF#8]).ready ∧
      (start 0xFFFF#16 [0x13#8, 0xFF#8, 0xFF#8]).holds [0x13#8, 0xFF#8, 0xFF#8]) ∧
    ((start 0x0100#16 [0x35#8, 0xF8#8, 0xFF#8]).ready ∧
      (start 0x0100#16 [0x35#8, 0xF8#8, 0xFF#8]).holds [0x35#8, 0xF8#8, 0xFF#8]) ∧
    (nextOf (exec (.staAbs 0x0007#16) { State.reset with a := 0xFF#8 })).map State.mem =
      some (start 0x0007#16 [0xFF#8]).mem ∧ (start 0x0007#16 [0xFF#8]).ready := by decide

theorem test_witness_AddRule :
    ((start 0xFFFF#16 [0x20#8]).ready ∧ (start 0xFFFF#16 [0x20#8]).holds [0x20#8]) := by decide

theorem test_witness_SubRule :
    ((start 0xFFFF#16 [0x21#8]).ready ∧ (start 0xFFFF#16 [0x21#8]).holds [0x21#8]) := by decide

theorem test_witness_LogicRules :
    ((start 0xFFFF#16 [0x22#8]).ready ∧ (start 0xFFFF#16 [0x22#8]).holds [0x22#8]) ∧
    ((start 0x0100#16 [0x23#8]).ready ∧ (start 0x0100#16 [0x23#8]).holds [0x23#8]) ∧
    ((start 0x0000#16 [0x24#8]).ready ∧ (start 0x0000#16 [0x24#8]).holds [0x24#8]) := by decide

theorem test_witness_IncrementDecrementRules :
    ((start 0xFFFF#16 [0x25#8]).ready ∧ (start 0xFFFF#16 [0x25#8]).holds [0x25#8]) ∧
    ((start 0x0100#16 [0x26#8]).ready ∧ (start 0x0100#16 [0x26#8]).holds [0x26#8]) := by decide

theorem test_witness_JumpRules :
    ((start 0xFFFD#16 [0x30#8, 0xFF#8, 0xFF#8]).ready ∧ (start 0xFFFD#16 [0x30#8, 0xFF#8, 0xFF#8]).holds [0x30#8, 0xFF#8, 0xFF#8]) ∧
    ((start 0x0010#16 [0x31#8, 0x40#8, 0x00#8]).ready ∧ (start 0x0010#16 [0x31#8, 0x40#8, 0x00#8]).holds [0x31#8, 0x40#8, 0x00#8]) ∧
    ((start 0x0010#16 [0x32#8, 0x02#8, 0x00#8]).ready ∧ (start 0x0010#16 [0x32#8, 0x02#8, 0x00#8]).holds [0x32#8, 0x02#8, 0x00#8]) := by decide

theorem test_witness_NopRule :
    ((start 0xFFFF#16 [0x00#8]).ready ∧ (start 0xFFFF#16 [0x00#8]).holds [0x00#8]) := by decide

theorem test_witness_HltRule :
    ((start 0xFFFF#16 [0xFF#8]).ready ∧ (start 0xFFFF#16 [0xFF#8]).holds [0xFF#8]) := by decide

theorem test_witness_UndefinedOpcodeRule :
    (isUndefinedByte 0x01#8 = true ∧ (start 0x0000#16 [0x01#8]).ready ∧ (start 0x0000#16 [0x01#8]).holds [0x01#8]) ∧
    (isUndefinedByte 0xFE#8 = true ∧ (start 0xFFFF#16 [0xFE#8]).ready ∧ (start 0xFFFF#16 [0xFE#8]).holds [0xFE#8]) := by
  decide

/-- Every instruction form of the statement answers a next state, here with Z set, N set, or neither. -/
theorem test_witness_SetZNWritesZeroAndNegativeOnly :
    (nextOf (exec (.ldaImm 0x80#8) State.reset)).map State.flags = some 0x04#8 ∧
    (nextOf (exec .subB State.reset)).map State.flags = some 0x03#8 ∧
    (nextOf (exec (.ldbImm 0x00#8) State.reset)).map State.flags = some 0x02#8 ∧
    (nextOf (exec (.ldxImm 0x7F#8) State.reset)).map State.flags = some 0x00#8 := by decide

theorem test_witness_AluFrame :
    (nextOf (exec .addB State.reset)).isSome = true ∧ (nextOf (exec .decA State.reset)).isSome = true ∧
    Instr.decA ∉ [Instr.addB, Instr.subB] := by decide

theorem test_witness_LoadFrame :
    (nextOf (exec (.ldbImm 0x80#8) State.reset)).isSome = true ∧
    (nextOf (exec (.ldaIdx 0xFFFF#16) State.reset)).isSome = true := by decide

theorem test_witness_StoreFrame :
    (nextOf (exec (.staAbs 0xFFFF#16) { State.reset with a := 0x42#8 })).isSome = true ∧
    (nextOf (exec (.staIdx 0xFFF8#16) { State.reset with a := 0x42#8, x := 0x10#8 })).isSome = true := by decide

theorem test_witness_ControlAndSystemFrame :
    (nextOf (exec (.jzAbs 0x0040#16) { State.reset with flags := 0x02#8 })).isSome = true ∧
    (nextOf (exec (.undef 0x99#8) State.reset)).isSome = true ∧ Instr.nop ∉ [Instr.hlt, Instr.undef 0x99#8] := by
  decide

/-- Each clause's inequality is met by its writer. -/
theorem test_witness_OnlyNamedWritersChangeState :
    (nextOf (exec (.ldaImm 0x01#8) State.reset)).map State.a = some 0x01#8 ∧
    (nextOf (exec (.ldbImm 0x01#8) State.reset)).map State.b = some 0x01#8 ∧
    (nextOf (exec (.ldxImm 0x01#8) State.reset)).map State.x = some 0x01#8 ∧
    (nextOf (exec (.jmpAbs 0x0100#16) State.reset)).map State.pc = some 0x0100#16 ∧
    (nextOf (exec (.staAbs 0x0000#16) { State.reset with a := 0x01#8 })).map State.mem = some [(0, 0x01#8)] ∧
    (nextOf (exec .hlt State.reset)).map State.halted = some true := by decide

theorem test_witness_FetchOpTransition : State.reset.ustate = .fetchOp := by decide

theorem test_witness_DecodeAndWriteBackTransitions :
    (mid .decode 0x35#8 0x0000#16).ustate = .decode ∧ (mid .writeBack 0x35#8 0x0000#16).ustate = .writeBack := by decide

theorem test_witness_OperandFetchTransitions :
    (mid .fetchOpLo 0x33#8 0x1200#16).ustate = .fetchOpLo ∧ (mid .fetchOpHi 0x35#8 0x0034#16).ustate = .fetchOpHi := by
  decide

theorem test_witness_ExecuteTransition :
    isUndefinedByte 0x01#8 = true ∧ isUndefinedByte 0xFE#8 = true ∧
    ((mid .execute 0xFF#8 0x0000#16).ustate = .execute ∧ haltingOpcode (mid .execute 0xFF#8 0x0000#16).opcode) ∧
    haltingOpcode (mid .execute 0x99#8 0x0000#16).opcode ∧ ¬ haltingOpcode (mid .execute 0x20#8 0x0000#16).opcode ∧
    (mid .execute 0x34#8 0xFFF8#16).opcode = 0x34#8 ∧ (mid .execute 0x13#8 0x1234#16).opcode = 0x13#8 ∧
    (mid .execute 0x33#8 0x0005#16).opcode ∉ [0x12#8, 0x34#8, 0x13#8, 0x35#8] := by decide

theorem test_witness_StepCycleAppendsOneFrame :
    (mid .execute 0xFF#8 0x0000#16).running ∧ (nextOf (stepCycle (mid .execute 0xFF#8 0x0000#16))).isSome = true := by
  decide

theorem test_witness_HaltedStepCycleDoesNothing :
    State.reset.halt.resetDone = true ∧ State.reset.halt.halted = true := by decide

theorem test_witness_StepCycleStopsExactlyWhenUnreachable :
    ({ State.reset with resetDone := false } : State).resetDone = false ∧
    flagsReserved ({ State.reset with flags := 0x10#8 } : State).flags ≠ 0#4 ∧
    (mid .halted 0x00#8 0x0000#16).running ∧ (mid .memRead 0x00#8 0x0000#16).running ∧
    (mid .memWrite 0x00#8 0x0000#16).running ∧ (mid .execute 0x99#8 0x0000#16).running := by decide

theorem test_witness_MicroStepFrame :
    (nextOf (stepCycle (mid .writeBack 0x20#8 0x0000#16))).isSome = true ∧
    (nextOf (stepCycle (mid .execute 0x30#8 0x0100#16))).map State.pc = some 0x0100#16 := by decide

theorem test_witness_BusEventsOfEachMicroStep :
    (mid .execute 0x35#8 0xFFF8#16).running ∧ (nextOf (stepCycle (mid .execute 0x35#8 0xFFF8#16))).isSome = true ∧
    (nextOf (stepCycle (mid .fetchOpHi 0x12#8 0x0000#16))).isSome = true := by decide

theorem test_witness_StepRunsTheDecodedInstruction :
    (start 0xFFFE#16 [0x13#8, 0x34#8, 0x12#8]).ready ∧
    decode ((start 0xFFFE#16 [0x13#8, 0x34#8, 0x12#8]).mem.readBytes 0xFFFE#16 3) = .ok (.staAbs 0x1234#16, []) := by
  decide

theorem test_witness_FetchWordIsWhatStepDecodes :
    flagsReserved State.reset.flags = 0#4 ∧ decodeTableWord 24 0xFFF835 = some (.staIdx 0xFFF8#16) ∧
    decodeTableWord 8 0xFF = some .hlt := by decide

theorem test_witness_StepEndsAtAnInstructionBoundary :
    (nextOf (step (mid .fetchOpHi 0x12#8 0x0000#16))).isSome = true ∧
    (nextOf (step (start 0x0000#16 [0xFF#8]))).isSome = true := by decide

theorem test_witness_MidInstructionStepDrainsThenRunsOne :
    (mid .decode 0x12#8 0x0000#16).running ∧ (mid .writeBack 0x12#8 0x0000#16).running ∧
    (nextOf (cycles 1 (mid .decode 0x12#8 0x0000#16))).isSome = true := by decide

theorem test_witness_MicroStateSequenceOfEachClass :
    (start 0xFFFF#16 [0x99#8]).ready ∧ (start 0xFFFF#16 [0x35#8, 0xF8#8, 0xFF#8]).ready := by decide

theorem test_witness_TimelineIsAppendOnly :
    (nextOf (step (start 0x0000#16 [0x10#8, 0x05#8]))).map (fun t => t.timeline.length) = some 5 := by decide

theorem test_witness_CanonicalMemoriesThatReadAlikeAreEqual :
    Memory.wf [(0, 0x01#8), (65535, 0xFF#8)] = true ∧
    Memory.wf (Memory.write (Memory.write [] 0xFFFF#16 0xFF#8) 0x0000#16 0x01#8) = true ∧
    Memory.write (Memory.write [] 0xFFFF#16 0xFF#8) 0x0000#16 0x01#8 = [(0, 0x01#8), (65535, 0xFF#8)] := by decide

/-- `load_program` just over and just at the end of memory, and `write16` at the last address it takes. -/
theorem test_witness_RangePortsWriteExactlyOrReject :
    65536 < (0xFFFF#16).toNat + ([0x01#8, 0x02#8] : List Byte).length ∧
    (0xFFFF#16).toNat + ([0x01#8] : List Byte).length ≤ 65536 ∧ ([0x01#8] : List Byte)[0]? = some 0x01#8 ∧
    (0xFFFE#16).toNat < (0xFFFF#16).toNat ∧ 0xFFFE#16 ≠ 0xFFFF#16 ∧
    (0x0000#16 ≠ 0xFFFE#16 ∧ 0x0000#16 ≠ 0xFFFE#16 + 1#16) := by decide

theorem test_witness_FetchSeesTheStoredByte :
    nextOf (exec (.staAbs 0x0007#16) { State.reset with a := 0xFF#8 }) =
      some { State.reset with
        a := 0xFF#8, mem := [(7, 0xFF#8)], ustate := .writeBack,
        events := [⟨0, .fetchOp, .write, 0x0007#16, 0xFF#8, .storeData⟩] } ∧
    (start 0x0007#16 [0xFF#8]).mem = [(7, 0xFF#8)] ∧ (start 0x0007#16 [0xFF#8]).pc = 0x0007#16 ∧
    (start 0x0007#16 [0xFF#8]).running ∧ (start 0x0007#16 [0xFF#8]).ustate = .fetchOp ∧
    (nextOf (exec (.staIdx 0xFFF8#16) { State.reset with a := 0x42#8, x := 0x10#8 })).map State.mem = some [(8, 0x42#8)] ∧
    (0x0008#16 : Addr) = indexedAddr 0xFFF8#16 0x10#8 := by decide

theorem test_witness_HostWriteDoesNotReachTheLatches :
    (nextOf (stepCycle (mid .execute 0x13#8 0x1234#16))).isSome = true ∧
    (mid .execute 0x13#8 0x1234#16).opcode ≠ 0x12#8 ∧ (mid .execute 0x13#8 0x1234#16).opcode ≠ 0x34#8 ∧
    (nextOf (stepCycle (mid .decode 0x12#8 0x0000#16))).isSome = true := by decide

theorem test_witness_OnlyResetWakesAHaltedCore :
    State.reset.halt.resetDone = true ∧ State.reset.halt.halted = true ∧
    ∀ pc, Request.reset pc ∉ [Request.stepCycle, .stepInstr, .poke 0x0000#16 0x01#8, .observe] := by
  refine ⟨rfl, rfl, fun pc => ?_⟩
  simp

/-- The invariant is met in a state other than reset: a halted core after one recorded cycle, memory not empty. -/
theorem test_witness_CoreInv : CoreInv
    { State.reset with
      mem := [(7, 0xFF#8)], halted := true, ustate := .halted, cycle := 1,
      timeline := [⟨0, 0x0000#16, 0x00#8, 0x00#8, 0x00#8, 0xFF#8, 0x00#8, 0xFF#8, .halted, []⟩] } :=
  { timeline_length := rfl
    halted_iff := by decide
    flags_reserved := by decide
    ustate_entered := by decide
    frames_numbered := by
      intro k f h
      cases k with
      | zero => cases h; rfl
      | succ k => cases h
    sp_inert := rfl
    mem_wf := by decide
    one_event := by decide
    frame_events := by decide
    reset_done := rfl }

/-- The hypotheses of the statement that every step keeps the invariant: that state steps. -/
theorem test_witness_EveryStepKeepsTheInvariant :
    (nextOf (step { State.reset with
      mem := [(7, 0xFF#8)], halted := true, ustate := .halted, cycle := 1,
      timeline := [⟨0, 0x0000#16, 0x00#8, 0x00#8, 0x00#8, 0xFF#8, 0x00#8, 0xFF#8, .halted, []⟩] })).isSome = true := by
  decide

theorem test_witness_EveryRequestIsServedAndKeepsTheInvariant : ∃ s : State, CoreInv s ∧ s.halted = true :=
  ⟨_, test_witness_CoreInv, rfl⟩

theorem test_witness_EveryReachableStateIsSafe :
    Reachable (((State.powerOn (fun _ => 0xFF#8) State.reset).poke 0x0000#16 0x99#8).resetAt 0xFFFF#16) :=
  ⟨fun _ => 0xFF#8, State.reset, [.poke 0x0000#16 0x99#8], 0xFFFF#16, [], _, rfl, rfl⟩

end Sys2Proof.Tests
end

section
/-! PROOFS. The statements about the state (10_state.md): the laws they need (what a memory list reads as, what an
Execute and a transition can do, which properties a schedule of host requests keeps), the invariant of R48, and the
settled statements. -/

namespace Sys2Proof.Machine

/-! ### Memory lists by what they read -/

theorem Memory.lookup_of_not_key (k : Nat) (m : Memory) (h : ∀ p ∈ m, p.1 ≠ k) :
    Memory.lookup k m = unlistedByte := by
  induction m with
  | nil => rfl
  | cons p m ih =>
    rw [Memory.lookup, if_neg (h p (by simp))]
    exact ih fun q hq => h q (by simp [hq])

@[simp] theorem Memory.lookup_cons_self (k : Nat) (v : Byte) (m : Memory) :
    Memory.lookup k ((k, v) :: m) = v := by
  simp [Memory.lookup]

theorem Memory.lookup_cons_ne {k j : Nat} (v : Byte) (m : Memory) (h : j ≠ k) :
    Memory.lookup j ((k, v) :: m) = Memory.lookup j m := by
  simp [Memory.lookup, h.symm]

/-- The first key of a canonical list tells it from every list whose keys all lie higher. -/
theorem Memory.lookup_head_ne {k : Nat} {v : Byte} {m n : Memory} (hm : Memory.wf ((k, v) :: m) = true)
    (hn : ∀ p ∈ n, k < p.1) : Memory.lookup k ((k, v) :: m) ≠ Memory.lookup k n := by
  obtain ⟨⟨-, hv⟩, -, -⟩ := (Memory.wf_cons k v m).1 hm
  rwa [Memory.lookup_cons_self, Memory.lookup_of_not_key k n fun p hp => (hn p hp).ne']

/-- What lies below the first key of a canonical list lies below all of them. -/
theorem Memory.lt_keys_of_lt_head {j k : Nat} {v : Byte} {m : Memory} (h : Memory.wf ((k, v) :: m) = true)
    (hj : j < k) : ∀ p ∈ (k, v) :: m, j < p.1 := by
  obtain ⟨-, habove, -⟩ := (Memory.wf_cons k v m).1 h
  intro p hp
  rcases List.mem_cons.1 hp with rfl | hp
  · exact hj
  · exact hj.trans (habove p hp)

/-- The canonical form is unique: by induction on both lists, whose first keys must agree, since the lower of two
different ones would be listed on one side only. -/
theorem Memory.eq_of_lookup_eq (m n : Memory) (hm : m.wf = true) (hn : n.wf = true)
    (h : ∀ k < Config.memSize, Memory.lookup k m = Memory.lookup k n) : m = n := by
  induction m generalizing n with
  | nil =>
    cases n with
    | nil => rfl
    | cons q n =>
      obtain ⟨⟨hk, -⟩, -, -⟩ := (Memory.wf_cons q.1 q.2 n).1 hn
      exact absurd (h q.1 hk).symm (Memory.lookup_head_ne hn (by simp))
  | cons p m ih =>
    obtain ⟨k, v⟩ := p
    obtain ⟨⟨hk, -⟩, hkm, hm'⟩ := (Memory.wf_cons k v m).1 hm
    cases n with
    | nil => exact absurd (h k hk) (Memory.lookup_head_ne hm (by simp))
    | cons q n =>
      obtain ⟨j, w⟩ := q
      obtain ⟨⟨hj, -⟩, hjn, hn'⟩ := (Memory.wf_cons j w n).1 hn
      rcases lt_trichotomy k j with hlt | rfl | hlt
      · exact absurd (h k hk) (Memory.lookup_head_ne hm (Memory.lt_keys_of_lt_head hn hlt))
      · have hvw : v = w := by simpa using h k hk
        have htails : ∀ i < Config.memSize, Memory.lookup i m = Memory.lookup i n := by
          intro i hi
          by_cases hik : i = k
          · rw [hik, Memory.lookup_of_not_key k m fun p hp => (hkm p hp).ne',
              Memory.lookup_of_not_key k n fun p hp => (hjn p hp).ne']
          · simpa [Memory.lookup_cons_ne _ _ hik] using h i hi
        rw [hvw, ih n hm' hn' htails]
      · exact absurd (h j hj).symm (Memory.lookup_head_ne hn (Memory.lt_keys_of_lt_head hm hlt))

/-- One more entry at the end, above every listed key. -/
theorem Memory.lookup_concat (m : Memory) (k j : Nat) (v : Byte) (h : ∀ p ∈ m, p.1 < k) :
    Memory.lookup j (m ++ [(k, v)]) = if j = k then v else Memory.lookup j m := by
  induction m with
  | nil => simp [Memory.lookup, eq_comm]
  | cons p m ih =>
    obtain ⟨q, w⟩ := p
    have hq : q < k := h (q, w) (by simp)
    have ih := ih fun p hp => h p (by simp [hp])
    by_cases hqj : q = j
    · subst hqj
      simp [hq.ne]
    · rw [List.cons_append, Memory.lookup_cons_ne _ _ (Ne.symm hqj), ih, Memory.lookup_cons_ne _ _ (Ne.symm hqj)]

/-- One more byte of `init_mem`, be it listed or what an unlisted key holds. -/
theorem Memory.lookup_ofInitUpTo_succ (init : Config.InitMem) (n k : Nat) :
    Memory.lookup k (Memory.ofInitUpTo init (n + 1)) =
      if k = n then init (BitVec.ofNat 16 n) else Memory.lookup k (Memory.ofInitUpTo init n) := by
  have hkeys := Memory.mem_ofInitUpTo init n
  simp only [Memory.ofInitUpTo]
  split
  case isTrue hunlisted =>
    by_cases hk : k = n
    · rw [if_pos hk, hunlisted, Memory.lookup_of_not_key k _ fun p hp => hk ▸ (hkeys p hp).ne]
    · rw [if_neg hk]
  case isFalse => exact Memory.lookup_concat _ n k _ hkeys

/-- The list of the lowest `n` bytes of `init` holds those bytes and no other. -/
theorem Memory.lookup_ofInitUpTo (init : Config.InitMem) (n k : Nat) :
    Memory.lookup k (Memory.ofInitUpTo init n) = if k < n then init (BitVec.ofNat 16 k) else unlistedByte := by
  induction n with
  | zero => rfl
  | succ n ih =>
    rw [Memory.lookup_ofInitUpTo_succ, ih]
    by_cases hk : k = n
    · rw [if_pos hk, if_pos (by omega), hk]
    · have hlt : k < n ↔ k < n + 1 := by omega
      simp only [if_neg hk, hlt]

/-- The power-on memory reads as `init_mem` (92_eei_decisions.md D9). -/
@[simp] theorem Memory.read_ofInit (init : Config.InitMem) (addr : Addr) :
    (Memory.ofInit init).read addr = init addr := by
  have haddr : addr.toNat < Config.memSize := addr.isLt
  rw [Memory.read, Memory.ofInit, Memory.lookup_ofInitUpTo, if_pos haddr, BitVec.ofNat_toNat, BitVec.setWidth_eq]

/-! ### The reserved FLAGS bits -/

@[simp] theorem flagsReserved_setZN (v f : Byte) : flagsReserved (setZN v f) = flagsReserved f :=
  flagsReserved_updateFlags f _ _ (by decide)

@[simp] theorem flagsReserved_add9 (a b f : Byte) : flagsReserved (add9 a b f).2 = flagsReserved f :=
  flagsReserved_updateFlags f _ _ (by decide)

@[simp] theorem flagsReserved_sub9 (a b f : Byte) : flagsReserved (sub9 a b f).2 = flagsReserved f :=
  flagsReserved_updateFlags f _ _ (by decide)

/-! ### What an Execute can do, piece by piece of the state -/

section Exec

variable {i : Instr} {s t : State}

theorem exec_sameEngine (h : exec i s = .next t) : State.sameEngine s t := by
  cases i <;> cases h <;> exact ⟨rfl, rfl, rfl, rfl, rfl, rfl⟩

theorem exec_a_cases (h : exec i s = .next t) :
    t.a = s.a ∨ (∃ imm, i = .ldaImm imm) ∨ (∃ addr, i = .ldaAbs addr ∨ i = .ldaIdx addr) ∨
      i ∈ [.addB, .subB, .andB, .orB, .xorB, .incA, .decA] := by
  cases i <;> cases h
  case ldaImm imm => exact .inr (.inl ⟨imm, rfl⟩)
  case ldaAbs addr => exact .inr (.inr (.inl ⟨addr, .inl rfl⟩))
  case ldaIdx addr => exact .inr (.inr (.inl ⟨addr, .inr rfl⟩))
  case addB | subB | andB | orB | xorB | incA | decA => exact .inr (.inr (.inr (by decide)))
  all_goals exact .inl rfl

theorem exec_b_cases (h : exec i s = .next t) : t.b = s.b ∨ ∃ imm, i = .ldbImm imm := by
  cases i <;> cases h
  case ldbImm imm => exact .inr ⟨imm, rfl⟩
  all_goals exact .inl rfl

theorem exec_x_cases (h : exec i s = .next t) : t.x = s.x ∨ ∃ imm, i = .ldxImm imm := by
  cases i <;> cases h
  case ldxImm imm => exact .inr ⟨imm, rfl⟩
  all_goals exact .inl rfl

theorem exec_pc_cases (h : exec i s = .next t) :
    t.pc = s.pc ∨ ∃ addr, i = .jmpAbs addr ∨ i = .jzAbs addr ∨ i = .jnzAbs addr := by
  cases i <;> cases h
  case jmpAbs addr => exact .inr ⟨addr, .inl rfl⟩
  case jzAbs addr => exact .inr ⟨addr, .inr (.inl rfl)⟩
  case jnzAbs addr => exact .inr ⟨addr, .inr (.inr rfl)⟩
  all_goals exact .inl rfl

/-- Memory after an Execute: kept, or one byte written by a store (42_load_store.md R194, R196). -/
theorem exec_mem_cases (h : exec i s = .next t) :
    t.mem = s.mem ∨ ∃ addr, (i = .staAbs addr ∧ t.mem = s.mem.write (absoluteAddr addr) s.a) ∨
      (i = .staIdx addr ∧ t.mem = s.mem.write (indexedAddr addr s.x) s.a) := by
  cases i <;> cases h
  case staAbs addr => exact .inr ⟨addr, .inl ⟨rfl, rfl⟩⟩
  case staIdx addr => exact .inr ⟨addr, .inr ⟨rfl, rfl⟩⟩
  all_goals exact .inl rfl

theorem exec_halted_cases (h : exec i s = .next t) :
    t.halted = s.halted ∨ i = .hlt ∨ ∃ op, i = .undef op := by
  cases i <;> cases h
  case hlt => exact .inr (.inl rfl)
  case undef op => exact .inr (.inr ⟨op, rfl⟩)
  all_goals exact .inl rfl

/-- The Bus Events after an Execute: those before it, and at most one more, of this cycle. -/
theorem exec_events_cases (h : exec i s = .next t) :
    t.events = s.events ∨ ∃ e : BusEvent, e.cycle = s.cycle ∧ t.events = s.events ++ [e] := by
  cases i <;> cases h
  case ldaAbs | ldaIdx | staAbs | staIdx => exact .inr ⟨_, rfl, rfl⟩
  all_goals exact .inl rfl

theorem exec_flagsReserved (h : exec i s = .next t) : flagsReserved t.flags = flagsReserved s.flags := by
  cases i <;> cases h
  case addB => exact flagsReserved_add9 s.a s.b s.flags
  case subB => exact flagsReserved_sub9 s.a s.b s.flags
  case ldaImm | ldbImm | ldxImm | ldaAbs | ldaIdx | andB | orB | xorB | incA | decA =>
    exact flagsReserved_setZN _ s.flags
  all_goals rfl

end Exec

/-! ### What a transition can do -/

/-- The micro-states that the engine leaves by a transition: all but the three of 40_microengine.md R138. -/
def MicroState.hasTransition : MicroState → Bool
  | .halted | .memRead | .memWrite => false
  | .fetchOp | .decode | .fetchOpLo | .fetchOpHi | .execute | .writeBack => true

theorem MicroState.hasTransition_iff (u : MicroState) :
    u.hasTransition = true ↔ u ≠ .halted ∧ u ≠ .memRead ∧ u ≠ .memWrite := by
  cases u <;> simp [MicroState.hasTransition]

/-- What every transition keeps, and the ways in which memory, the Bus Events and the micro-state may change. -/
structure TransitionEffect (s t : State) : Prop where
  sp_kept : t.sp = s.sp
  cycle_kept : t.cycle = s.cycle
  timeline_kept : t.timeline = s.timeline
  resetDone_kept : t.resetDone = s.resetDone
  reserved_kept : flagsReserved t.flags = flagsReserved s.flags
  mem_cases : t.mem = s.mem ∨ ∃ addr v, t.mem = s.mem.write addr v
  events_cases : t.events = s.events ∨ ∃ e : BusEvent, e.cycle = s.cycle ∧ t.events = s.events ++ [e]
  halt_cases : (t.halted = s.halted ∧ t.ustate.hasTransition = true) ∨ (t.halted = true ∧ t.ustate = .halted)

theorem transition_completes (s : State) (h : s.ustate.hasTransition = true) : ∃ t, transition s = .next t := by
  unfold transition microExecute
  cases hu : s.ustate
  case execute => exact exec_completes _ s
  case halted | memRead | memWrite => rw [hu] at h; cases h
  all_goals exact ⟨_, rfl⟩

theorem microDecode_hasTransition (s : State) : (microDecode s).ustate.hasTransition = true := by
  rw [microDecode_ustate]
  split <;> rfl

theorem microFetchOpLo_hasTransition (s : State) : (microFetchOpLo s).ustate.hasTransition = true := by
  rw [microFetchOpLo_ustate]
  split <;> rfl

theorem exec_effect {i : Instr} {s t : State} (h : exec i s = .next t) : TransitionEffect s t := by
  obtain ⟨hsp, -, -, hcycle, htimeline, hreset⟩ := exec_sameEngine h
  refine ⟨hsp, hcycle, htimeline, hreset, exec_flagsReserved h, ?_, exec_events_cases h, ?_⟩
  · rcases exec_mem_cases h with hmem | ⟨addr, ⟨-, hmem⟩ | ⟨-, hmem⟩⟩
    · exact .inl hmem
    · exact .inr ⟨_, _, hmem⟩
    · exact .inr ⟨_, _, hmem⟩
  · rcases exec_ends i s t h with ⟨hhalted, hu⟩ | hend
    · exact .inl ⟨hhalted, by rw [hu]; rfl⟩
    · exact .inr hend

theorem transition_effect {s t : State} (h : transition s = .next t) : TransitionEffect s t := by
  rcases transition_next s t h with ⟨-, rfl⟩ | ⟨-, rfl⟩ | ⟨-, rfl⟩ | ⟨-, rfl⟩ | ⟨-, hexec⟩ | ⟨-, rfl⟩
  · exact ⟨rfl, rfl, rfl, rfl, rfl, .inl rfl, .inr ⟨_, rfl, rfl⟩, .inl ⟨rfl, rfl⟩⟩
  · exact ⟨rfl, rfl, rfl, rfl, rfl, .inl rfl, .inl rfl, .inl ⟨rfl, microDecode_hasTransition s⟩⟩
  · exact ⟨rfl, rfl, rfl, rfl, rfl, .inl rfl, .inr ⟨_, rfl, rfl⟩, .inl ⟨rfl, microFetchOpLo_hasTransition s⟩⟩
  · exact ⟨rfl, rfl, rfl, rfl, rfl, .inl rfl, .inr ⟨_, rfl, rfl⟩, .inl ⟨rfl, rfl⟩⟩
  · exact exec_effect hexec
  · exact ⟨rfl, rfl, rfl, rfl, rfl, .inl rfl, .inl rfl, .inl ⟨rfl, rfl⟩⟩

theorem TransitionEffect.mem_wf {s t : State} (h : TransitionEffect s t) (hs : s.mem.wf = true) :
    t.mem.wf = true := by
  rcases h.mem_cases with hmem | ⟨addr, v, hmem⟩
  · rwa [hmem]
  · rw [hmem]; exact Memory.wf_write s.mem addr v hs

/-- The Bus Events of a transition that starts with none, as `step_cycle` starts each (R131). -/
theorem TransitionEffect.events_of_nil {s t : State} (h : TransitionEffect s t) (hs : s.events = []) :
    t.events.length ≤ 1 ∧ ∀ e ∈ t.events, e.cycle = s.cycle := by
  rcases h.events_cases with hev | ⟨e, hcycle, hev⟩
  · simp [hev, hs]
  · simp [hev, hs, hcycle]

/-- A transition of a core that is not halted halts it exactly by entering Halted. -/
theorem TransitionEffect.halted_iff {s t : State} (h : TransitionEffect s t) (hs : s.halted = false) :
    t.halted = true ↔ t.ustate = .halted := by
  rcases h.halt_cases with ⟨hkept, hgoes⟩ | ⟨hhalted, hu⟩
  · simp [hkept, hs, ((MicroState.hasTransition_iff _).1 hgoes).1]
  · simp [hhalted, hu]

/-- No transition enters MemRead or MemWrite (10_state.md R42). -/
theorem TransitionEffect.ustate_entered {s t : State} (h : TransitionEffect s t) :
    t.ustate ≠ .memRead ∧ t.ustate ≠ .memWrite := by
  rcases h.halt_cases with ⟨-, hgoes⟩ | ⟨-, hu⟩
  · exact ((MicroState.hasTransition_iff _).1 hgoes).2
  · simp [hu]

/-- What a `step_cycle` that answers next did, by the effect of its transition. -/
theorem stepCycle_effect {s t : State} (h : stepCycle s = .next t) :
    t = s ∨ (s.running ∧ ∃ u, TransitionEffect { s with events := [] } u ∧ t = u.emitFrame s.cycle) := by
  obtain ⟨-, ⟨-, rfl⟩ | ⟨hrun, u, hu, rfl⟩⟩ := stepCycle_next s t h
  · exact .inl rfl
  · exact .inr ⟨hrun, u, transition_effect hu, rfl⟩

/-! ### Growth of the timeline -/

/-- From `s` to `t` frames were appended, and `cycle` counted them (10_state.md R44, R47). -/
def TimelineGrows (s t : State) : Prop :=
  ∃ frames : List TraceFrame, t.timeline = s.timeline ++ frames ∧ t.cycle = s.cycle + frames.length

theorem TimelineGrows.refl (s : State) : TimelineGrows s s := ⟨[], by simp, rfl⟩

theorem TimelineGrows.trans {s t u : State} (hst : TimelineGrows s t) (htu : TimelineGrows t u) :
    TimelineGrows s u := by
  obtain ⟨fs, hfs, hcs⟩ := hst
  obtain ⟨gs, hgs, hct⟩ := htu
  exact ⟨fs ++ gs, by rw [hgs, hfs, List.append_assoc], by rw [hct, hcs, List.length_append, Nat.add_assoc]⟩

theorem stepCycle_grows {s t : State} (h : stepCycle s = .next t) : TimelineGrows s t := by
  rcases stepCycle_effect h with rfl | ⟨-, u, hu, rfl⟩
  · exact .refl t
  · exact ⟨[u.frame s.cycle], by simp [hu.timeline_kept], by simp [hu.cycle_kept]⟩

/-! ### Schedules -/

theorem silently_eq_next (o : Host.Outcome State Fault Refusal) (t : State) (r : Reply) :
    silently o = .next (t, r) ↔ o = .next t ∧ r = .none := by
  cases o <;> simp [silently, eq_comm]

theorem serveAll_cons_eq_next (q : Request) (qs : List Request) (s t : State) :
    serveAll (q :: qs) s = .next t ↔ ∃ u r, serve q s = .next (u, r) ∧ serveAll qs u = .next t := by
  rw [serveAll]
  split <;> simp_all

/-- A property that every request keeps, every schedule keeps. -/
theorem serveAll_keeps (P : State → Prop) (hP : ∀ q s t r, P s → serve q s = .next (t, r) → P t)
    (qs : List Request) (s t : State) (hs : P s) (h : serveAll qs s = .next t) : P t := by
  induction qs generalizing s with
  | nil => cases h; exact hs
  | cons q qs ih =>
    obtain ⟨u, r, hu, ht⟩ := (serveAll_cons_eq_next q qs s t).1 h
    exact ih u (hP q s u r hs hu) ht

/-! ### The canonical form under every request -/

theorem State.loadProgram_mem_wf (s : State) (bytes : List Byte) (origin : Addr) (h : s.mem.wf = true) :
    (s.loadProgram bytes origin).2.mem.wf = true := by
  unfold State.loadProgram
  split
  · exact h
  · exact Memory.wf_writeBytes bytes s.mem origin h

theorem State.write16_mem_wf (s : State) (addr value : Addr) (h : s.mem.wf = true) :
    (s.write16 addr value).2.mem.wf = true := by
  unfold State.write16
  split
  · exact h
  · exact Memory.wf_write _ _ _ (Memory.wf_write _ _ _ h)

theorem stepCycle_keeps_mem_wf (s t : State) (hs : s.mem.wf = true) (h : stepCycle s = .next t) :
    t.mem.wf = true := by
  rcases stepCycle_effect h with rfl | ⟨-, u, hu, rfl⟩
  · exact hs
  · exact hu.mem_wf hs

/-- Every request keeps memory canonical, before the first reset too. -/
theorem serve_keeps_mem_wf (q : Request) (s t : State) (r : Reply) (hs : s.mem.wf = true)
    (h : serve q s = .next (t, r)) : t.mem.wf = true := by
  cases q with
  | reset pc => cases h; exact hs
  | stepCycle => exact stepCycle_keeps_mem_wf s t hs ((silently_eq_next _ t r).1 h).1
  | stepInstr =>
    exact step_keeps (·.mem.wf = true) stepCycle_keeps_mem_wf s t hs ((silently_eq_next _ t r).1 h).1
  | loadProgram bytes origin => cases h; exact s.loadProgram_mem_wf bytes origin hs
  | write16 addr value => cases h; exact s.write16_mem_wf addr value hs
  | poke addr v => cases h; exact Memory.wf_write s.mem addr v hs
  | observe => cases h; exact hs

/-! ### The invariant: reset establishes it, every micro-step and every request keeps it -/

/-- Any reset over a canonical memory establishes the invariant, whatever the state before (R330). -/
theorem CoreInv.of_resetAt (s : State) (pc : Addr) (h : s.mem.wf = true) : CoreInv (s.resetAt pc) where
  timeline_length := rfl
  halted_iff := by simp
  flags_reserved := by rw [State.resetAt_flags]; decide
  ustate_entered := by simp
  frames_numbered := by simp
  sp_inert := rfl
  mem_wf := h
  one_event := by simp
  frame_events := by simp
  reset_done := rfl

/-- The host's memory ports may put any canonical memory in place. -/
theorem CoreInv.withMem {s : State} (hs : CoreInv s) (m : Memory) (hm : m.wf = true) :
    CoreInv { s with mem := m } :=
  { hs with mem_wf := hm }

/-- The frame of a transition from an invariant state: it takes the next number of the timeline (R139, R140). -/
theorem CoreInv.emitFrame {s u : State} (hs : CoreInv s) (hrun : s.halted = false)
    (hu : TransitionEffect { s with events := [] } u) : CoreInv (u.emitFrame s.cycle) := by
  have hevents := hu.events_of_nil rfl
  have htimeline : (u.emitFrame s.cycle).timeline = s.timeline ++ [u.frame s.cycle] := by
    rw [State.emitFrame_timeline, hu.timeline_kept]
  constructor
  case reset_done => exact hu.resetDone_kept.trans hs.reset_done
  case sp_inert => exact hu.sp_kept.trans hs.sp_inert
  case mem_wf => exact hu.mem_wf hs.mem_wf
  case one_event => exact hevents.1
  case frame_events =>
    rw [htimeline]
    intro f hf
    rcases List.mem_append.1 hf with hf | hf
    · exact hs.frame_events f hf
    · rw [List.mem_singleton.1 hf]; exact hevents
  constructor
  case timeline_length => rw [htimeline]; simp [hs.timeline_length, hu.cycle_kept]
  case flags_reserved => exact hu.reserved_kept.trans hs.flags_reserved
  case halted_iff => exact hu.halted_iff hrun
  case ustate_entered => exact hu.ustate_entered
  case frames_numbered =>
    rw [htimeline]
    intro k f hf
    rcases lt_or_ge k s.timeline.length with hk | hk
    · rw [List.getElem?_append_left hk] at hf
      exact hs.frames_numbered k f hf
    · rw [List.getElem?_append_right hk, List.getElem?_singleton] at hf
      obtain ⟨hlast, hframe⟩ := Option.ite_none_right_eq_some.1 hf
      have hcycle : f.cycle = s.cycle := congrArg TraceFrame.cycle (Option.some.inj hframe).symm
      rw [hcycle, ← hs.timeline_length]
      omega

theorem CoreInv.stepCycle_keeps (s t : State) (hs : CoreInv s) (h : stepCycle s = .next t) : CoreInv t := by
  rcases stepCycle_effect h with rfl | ⟨⟨-, hrun, -⟩, u, hu, rfl⟩
  · exact hs
  · exact hs.emitFrame hrun hu

theorem CoreInv.step_keeps (s t : State) (hs : CoreInv s) (h : step s = .next t) : CoreInv t :=
  Machine.step_keeps CoreInv CoreInv.stepCycle_keeps s t hs h

theorem CoreInv.serve_keeps (q : Request) (s t : State) (r : Reply) (hs : CoreInv s)
    (h : serve q s = .next (t, r)) : CoreInv t := by
  have hmem : t.mem.wf = true := serve_keeps_mem_wf q s t r hs.mem_wf h
  rcases serve_next q s t r h with ⟨pc, -, rfl⟩ | ⟨-, ht⟩ | ⟨-, ht⟩ | ⟨m, rfl⟩
  · exact CoreInv.of_resetAt s pc hs.mem_wf
  · exact hs.stepCycle_keeps s t ht
  · exact hs.step_keeps s t ht
  · exact hs.withMem m hmem

/-! ### Service: from the invariant every request answers next -/

/-- An invariant state that is not halted stands in a micro-state that has a transition. -/
theorem CoreInv.hasTransition {s : State} (hs : CoreInv s) (h : s.halted = false) :
    s.ustate.hasTransition = true := by
  refine (MicroState.hasTransition_iff _).2 ⟨fun hu => ?_, hs.ustate_entered⟩
  simp [hs.halted_iff.2 hu] at h

theorem CoreInv.stepCycle_completes {s : State} (hs : CoreInv s) : ∃ t, stepCycle s = .next t := by
  cases hh : s.halted
  case true => exact ⟨s, by simp [stepCycle, hs.reset_done, hh]⟩
  case false =>
    obtain ⟨u, hu⟩ := transition_completes { s with events := [] } (hs.hasTransition hh)
    exact ⟨u.emitFrame s.cycle, by rw [stepCycle_running s ⟨hs.reset_done, hh, hs.flags_reserved⟩, hu]; rfl⟩

theorem CoreInv.toBoundary_completes (n : Nat) {s : State} (hs : CoreInv s) : ∃ t, toBoundary n s = .next t := by
  induction n generalizing s with
  | zero => exact ⟨s, rfl⟩
  | succ n ih =>
    obtain ⟨u, hu⟩ := hs.stepCycle_completes
    rw [toBoundary_succ, hu, andThen_next]
    split
    · exact ⟨u, rfl⟩
    · exact ih (hs.stepCycle_keeps s u hu)

theorem CoreInv.drain_served {s : State} (hs : CoreInv s) : ∃ t, drain s = .next t ∧ CoreInv t := by
  unfold drain
  split
  · exact ⟨s, rfl, hs⟩
  · obtain ⟨t, ht⟩ := hs.toBoundary_completes maxDrainCycles
    exact ⟨t, ht, toBoundary_keeps CoreInv CoreInv.stepCycle_keeps _ s t hs ht⟩

theorem CoreInv.stepInstr_completes {s : State} (hs : CoreInv s) : ∃ t, stepInstr s = .next t := by
  obtain ⟨m, hm, hinv⟩ := hs.drain_served
  simp only [stepInstr, hs.reset_done, Bool.true_eq_false, if_false, hm, andThen_next]
  split
  · exact ⟨s, rfl⟩
  · split
    · exact ⟨m, rfl⟩
    · exact hinv.toBoundary_completes maxInstrCycles

theorem CoreInv.serve_completes {s : State} (hs : CoreInv s) (q : Request) :
    ∃ t r, serve q s = .next (t, r) := by
  cases q with
  | stepCycle =>
    obtain ⟨t, ht⟩ := hs.stepCycle_completes
    exact ⟨t, .none, (silently_eq_next _ t .none).2 ⟨ht, rfl⟩⟩
  | stepInstr =>
    obtain ⟨t, ht⟩ := hs.stepInstr_completes
    exact ⟨t, .none, (silently_eq_next _ t .none).2 ⟨ht, rfl⟩⟩
  | reset | loadProgram | write16 | poke | observe => exact ⟨_, _, rfl⟩

theorem CoreInv.serveAll_completes {s : State} (hs : CoreInv s) (qs : List Request) :
    ∃ t, serveAll qs s = .next t := by
  induction qs generalizing s with
  | nil => exact ⟨s, rfl⟩
  | cons q qs ih =>
    obtain ⟨u, r, hu⟩ := hs.serve_completes q
    obtain ⟨t, ht⟩ := ih (hs.serve_keeps q s u r hu)
    exact ⟨t, (serveAll_cons_eq_next q qs s t).2 ⟨u, r, hu, ht⟩⟩

/-! ### Reachable states -/

/-- The schedule before the reset keeps memory canonical; the reset makes the rest of the invariant. -/
theorem Reachable.coreInv {t : State} (h : Reachable t) : CoreInv t := by
  obtain ⟨init, unspecified, before, pc, after, s, hbefore, hafter⟩ := h
  have hpower : (State.powerOn init unspecified).mem.wf = true := Memory.wf_ofInit init
  have hmem : s.mem.wf = true := serveAll_keeps (·.mem.wf = true) serve_keeps_mem_wf before _ s hpower hbefore
  have hreset : CoreInv (s.resetAt pc) := CoreInv.of_resetAt s pc hmem
  exact serveAll_keeps CoreInv CoreInv.serve_keeps after _ t hreset hafter

/-! ### The settled statements -/

/-- Settles O49: `State.reset` is what a reset makes of any state with an empty memory list, itself among them. -/
theorem invariantHoldsAtReset : Obligations.InvariantHoldsAtReset :=
  CoreInv.of_resetAt State.reset Config.entryPc State.reset_mem_wf

/-- Settles O50: the invariant is one that `step_cycle` keeps, and `step` is made of those. -/
theorem everyStepKeepsTheInvariant : Obligations.EveryStepKeepsTheInvariant :=
  CoreInv.step_keeps

/-- Settles O51: from the invariant the request is answered, and what answers next keeps the invariant. -/
theorem everyRequestIsServedAndKeepsTheInvariant : Obligations.EveryRequestIsServedAndKeepsTheInvariant := by
  intro s q hs
  obtain ⟨t, r, ht⟩ := hs.serve_completes q
  exact ⟨t, r, ht, hs.serve_keeps q s t r ht⟩

/-- Settles O52, by induction over the schedules before and after the reset. -/
theorem everyReachableStateIsSafe : Obligations.EveryReachableStateIsSafe :=
  fun _ h => ⟨h.coreInv, h.coreInv.serveAll_completes⟩

/-- Settles O24, one lemma for each piece of the state. -/
theorem onlyNamedWritersChangeState : Obligations.OnlyNamedWritersChangeState := by
  intro i s t h
  obtain ⟨hsp, -⟩ := exec_sameEngine h
  have hmem : t.mem = s.mem ∨ ∃ addr, i = .staAbs addr ∨ i = .staIdx addr :=
    (exec_mem_cases h).imp_right fun ⟨addr, hstore⟩ => ⟨addr, hstore.imp And.left And.left⟩
  exact ⟨hsp, (exec_a_cases h).resolve_left, (exec_b_cases h).resolve_left, (exec_x_cases h).resolve_left,
    (exec_pc_cases h).resolve_left, hmem.resolve_left, (exec_halted_cases h).resolve_left⟩

/-- Settles O39: each `step_cycle` appends its frames, and growth composes. -/
theorem timelineIsAppendOnly : Obligations.TimelineIsAppendOnly :=
  fun s t h => step_keeps (TimelineGrows s) (fun _ _ hu hv => hu.trans (stepCycle_grows hv)) s t (.refl s) h

/-- Settles O40: the canonical form is unique, and every key of memory is an address. -/
theorem canonicalMemoriesThatReadAlikeAreEqual : Obligations.CanonicalMemoriesThatReadAlikeAreEqual := by
  intro m n hm hn h
  refine Memory.eq_of_lookup_eq m n hm hn fun k hk => ?_
  have hk : k < 2 ^ 16 := hk
  have hread := h (BitVec.ofNat 16 k)
  rwa [Memory.read, Memory.read, BitVec.toNat_ofNat, Nat.mod_eq_of_lt hk] at hread

/-- Settles O41, by what `Memory.ofInit` lists; reset keeps the list itself. -/
theorem anyInitialMemoryIsModelled : Obligations.AnyInitialMemoryIsModelled :=
  fun init _ _ addr => ⟨Memory.wf_ofInit init, Memory.read_ofInit init addr, Memory.read_ofInit init addr⟩

end Sys2Proof.Machine
end

section
/-! PROOFS. The statements about memory (20_memory.md): the bytes of an address, the equations of the host's memory
ports and of the engine's transitions, what a store leaves to be read, what does not depend on memory, and the
settled statements. -/

namespace Sys2Proof

/-! ### The two bytes of an address, as the host's arithmetic gives them -/

theorem lowByte_eq_ofNat (v : Addr) : lowByte v = BitVec.ofNat 8 v.toNat := by
  apply BitVec.eq_of_toNat_eq
  simp [lowByte]

theorem highByte_eq_ofNat (v : Addr) : highByte v = BitVec.ofNat 8 (v.toNat / 256) := by
  apply BitVec.eq_of_toNat_eq
  simp [highByte, Nat.shiftRight_eq_div_pow]

/-- The instruction that Execute takes from the latches is one of the latched opcode (30_encoding.md R106). -/
@[simp] theorem opcode_instrOf (op : Byte) (operand : Addr) : (instrOf op operand).opcode = op := by
  have hrows : ∀ r ∈ opcodeTable, (r.build operand).opcode = r.opcode := by
    simp [opcodeTable, Instr.opcode]
  unfold instrOf
  split
  case h_1 r hrow =>
    obtain ⟨hmem, hop⟩ := findRow_mem op r hrow
    rw [hrows r hmem, hop]
  case h_2 => rfl

end Sys2Proof

namespace Sys2Proof.Machine

/-! ### The operand latch -/

@[simp] theorem lowByte_setOperandLo (operand : Addr) (d : Byte) : lowByte (setOperandLo operand d) = d :=
  lowByte_concatBytes _ d

@[simp] theorem highByte_setOperandHi (operand : Addr) (d : Byte) : highByte (setOperandHi operand d) = d :=
  highByte_concatBytes d _

/-! ### The range ports of the host -/

/-- The last address is the only one with no second byte above it. -/
theorem toNat_add_two_le_iff (addr : Addr) : addr.toNat + 2 ≤ Config.memSize ↔ addr ≠ 0xFFFF#16 := by
  unfold Config.memSize
  bv_omega

/-- A run of bytes that ends inside memory leaves every address below and above it alone. -/
theorem Memory.read_writeBytes_of_outside_range (m : Memory) (bytes : List Byte) (origin addr : Addr)
    (hfits : origin.toNat + bytes.length ≤ 65536)
    (haddr : addr.toNat < origin.toNat ∨ origin.toNat + bytes.length ≤ addr.toNat) :
    (m.writeBytes origin bytes).read addr = m.read addr := by
  refine Memory.read_writeBytes_outside bytes m origin addr fun k hk heq => ?_
  have hnat : addr.toNat = origin.toNat + k := by bv_omega
  omega

theorem State.loadProgram_of_gt {s : State} {bytes : List Byte} {origin : Addr}
    (h : 65536 < origin.toNat + bytes.length) : s.loadProgram bytes origin = (.addressRangeExceeded, s) :=
  if_pos h

theorem State.loadProgram_of_le {s : State} {bytes : List Byte} {origin : Addr}
    (h : origin.toNat + bytes.length ≤ 65536) :
    s.loadProgram bytes origin = (.ok, { s with mem := s.mem.writeBytes origin bytes }) :=
  if_neg h.not_gt

theorem State.write16_last (s : State) (value : Addr) : s.write16 0xFFFF#16 value = (.addressRangeExceeded, s) :=
  if_pos (by decide)

theorem State.write16_of_ne {s : State} {addr value : Addr} (h : addr ≠ 0xFFFF#16) :
    s.write16 addr value =
      (.ok, { s with mem := (s.mem.write addr (lowByte value)).write (addr + 1#16) (highByte value) }) :=
  if_neg ((toNat_add_two_le_iff addr).2 h).not_gt

/-! ### The engine, by where it stands -/

section Transition

variable {s t : State}

theorem transition_fetchOp (h : s.ustate = .fetchOp) : transition s = .next (microFetchOp s) := by
  simp [transition, h]

theorem transition_decode (h : s.ustate = .decode) : transition s = .next (microDecode s) := by
  simp [transition, h]

theorem transition_fetchOpLo (h : s.ustate = .fetchOpLo) : transition s = .next (microFetchOpLo s) := by
  simp [transition, h]

theorem transition_fetchOpHi (h : s.ustate = .fetchOpHi) : transition s = .next (microFetchOpHi s) := by
  simp [transition, h]

theorem transition_execute (h : s.ustate = .execute) :
    transition s = exec (instrOf s.opcode s.operand) s := by
  simp [transition, h, microExecute]

theorem transition_writeBack (h : s.ustate = .writeBack) : transition s = .next (microWriteBack s) := by
  simp [transition, h]

theorem stepCycle_halted (hreset : s.resetDone = true) (h : s.halted = true) : stepCycle s = .next s := by
  simp [stepCycle, hreset, h]

theorem stepCycle_of_transition (hrun : s.running) (h : transition { s with events := [] } = .next t) :
    stepCycle s = .next (t.emitFrame s.cycle) := by
  rw [stepCycle_running s hrun, h, andThen_next]

end Transition

/-! ### What a store leaves to be read -/

/-- After either store its effective address reads as the A it stored (42_load_store.md R194, R196). -/
theorem exec_store_read {i : Instr} {addr base : Addr} {s t : State}
    (hi : i = .staAbs addr ∨ (i = .staIdx base ∧ addr = indexedAddr base s.x)) (h : exec i s = .next t) :
    t.mem.read addr = s.a := by
  rcases hi with rfl | ⟨rfl, rfl⟩
  · cases h; exact Memory.read_write_same s.mem addr s.a
  · cases h; exact Memory.read_write_same s.mem (indexedAddr base s.x) s.a

/-! ### What does not depend on memory -/

/-- Over any other memory, an instruction that is no memory load does the same to everything but memory. -/
theorem exec_withMem {i : Instr} {s t : State} (m : Memory) (hload : i.opcode ≠ 0x12#8 ∧ i.opcode ≠ 0x34#8)
    (h : exec i s = .next t) : ∃ m', exec i { s with mem := m } = .next { t with mem := m' } := by
  obtain ⟨habs, hidx⟩ := hload
  cases i <;> cases h
  case ldaAbs addr => exact absurd rfl habs
  case ldaIdx addr => exact absurd rfl hidx
  all_goals exact ⟨_, rfl⟩

/-- So does a transition that neither fetches nor executes a memory load. -/
theorem transition_withMem {s t : State} (m : Memory)
    (hfetch : s.ustate ∉ [MicroState.fetchOp, .fetchOpLo, .fetchOpHi])
    (hload : s.ustate = .execute → s.opcode ≠ 0x12#8 ∧ s.opcode ≠ 0x34#8) (h : transition s = .next t) :
    ∃ m', transition { s with mem := m } = .next { t with mem := m' } := by
  rcases transition_next s t h with ⟨hu, -⟩ | ⟨hu, rfl⟩ | ⟨hu, -⟩ | ⟨hu, -⟩ | ⟨hu, hexec⟩ | ⟨hu, rfl⟩
  · simp [hu] at hfetch
  · exact ⟨m, transition_decode (s := { s with mem := m }) hu⟩
  · simp [hu] at hfetch
  · simp [hu] at hfetch
  · have hop : (instrOf s.opcode s.operand).opcode = s.opcode := opcode_instrOf s.opcode s.operand
    obtain ⟨m', hm'⟩ := exec_withMem m (hop.symm ▸ hload hu) hexec
    exact ⟨m', (transition_execute (s := { s with mem := m }) hu).trans hm'⟩
  · exact ⟨m, transition_writeBack (s := { s with mem := m }) hu⟩

/-- And so does its `step_cycle`, halted or running. -/
theorem stepCycle_withMem {s t : State} (m : Memory)
    (hfetch : s.ustate ∉ [MicroState.fetchOp, .fetchOpLo, .fetchOpHi])
    (hload : s.ustate = .execute → s.opcode ≠ 0x12#8 ∧ s.opcode ≠ 0x34#8) (h : stepCycle s = .next t) :
    ∃ m', stepCycle { s with mem := m } = .next { t with mem := m' } := by
  obtain ⟨hreset, ⟨hhalted, rfl⟩ | ⟨hrun, u, hu, rfl⟩⟩ := stepCycle_next s t h
  · exact ⟨m, stepCycle_halted (s := { t with mem := m }) hreset hhalted⟩
  · obtain ⟨m', hm'⟩ := transition_withMem (s := { s with events := [] }) m hfetch hload hu
    exact ⟨m', stepCycle_of_transition (s := { s with mem := m }) hrun hm'⟩

/-! ### The settled statements -/

/-- Settles O42, by the memory law of a read after a write; the rest is what the two accesses are. -/
theorem engineAccessesAreRecordedOnce : Obligations.EngineAccessesAreRecordedOnce :=
  ⟨fun _ _ _ => rfl,
    fun s addr v note => ⟨s.memWrite_events addr v note, rfl, fun other => s.mem.read_write addr other v⟩⟩

/-- Settles O44, by the memory law of a read after a write. -/
theorem pokeWritesOneByteUnrecorded : Obligations.PokeWritesOneByteUnrecorded :=
  fun s addr v => ⟨s.poke addr v, rfl, rfl, fun other => s.mem.read_write addr other v⟩

/-- Settles O43: each port by its equation inside and outside the range, and the memory laws of what it wrote. -/
theorem rangePortsWriteExactlyOrReject : Obligations.RangePortsWriteExactlyOrReject := by
  refine ⟨fun s bytes origin h => State.loadProgram_of_gt h, fun s bytes origin hfits => ?_,
    State.write16_last, fun s addr value haddr => ?_⟩
  · have hlength : bytes.length ≤ 65536 := by omega
    exact ⟨_, State.loadProgram_of_le hfits, rfl,
      fun k v hk => Memory.read_writeBytes_inside bytes s.mem origin k v hlength hk,
      fun addr hout => s.mem.read_writeBytes_of_outside_range bytes origin addr hfits hout⟩
  · have hnext : addr ≠ addr + 1#16 := by bv_omega
    refine ⟨_, State.write16_of_ne haddr, rfl, ?_, ?_, fun other hlo hhi => ?_⟩
    · rw [Memory.read_write_other _ _ _ _ hnext, Memory.read_write_same, lowByte_eq_ofNat]
    · rw [Memory.read_write_same, highByte_eq_ofNat]
    · rw [Memory.read_write_other _ _ _ _ hhi, Memory.read_write_other _ _ _ _ hlo]

/-- Settles O46: the byte stored is the one at PC, and each fetch latches that one. -/
theorem fetchSeesTheStoredByte : Obligations.FetchSeesTheStoredByte := by
  intro i addr base s t u hi hexec hmem hpc hrun hu
  have hstored : u.mem.read u.pc = s.a := by rw [hmem, hpc, exec_store_read hi hexec]
  simp only [List.mem_cons, List.not_mem_nil, or_false] at hu
  rcases hu with hu | hu | hu
  · refine ⟨_, stepCycle_of_transition hrun (transition_fetchOp hu), fun _ => hstored, ?_, ?_⟩ <;> simp [hu]
  · have hlatch : lowByte (setOperandLo u.operand (u.mem.read u.pc)) = s.a := by simp [hstored]
    refine ⟨_, stepCycle_of_transition hrun (transition_fetchOpLo hu), ?_, fun _ => hlatch, ?_⟩ <;> simp [hu]
  · have hlatch : highByte (setOperandHi u.operand (u.mem.read u.pc)) = s.a := by simp [hstored]
    refine ⟨_, stepCycle_of_transition hrun (transition_fetchOpHi hu), ?_, ?_, fun _ => hlatch⟩ <;> simp [hu]

/-- Settles O47: `poke` only puts another memory in place. -/
theorem hostWriteDoesNotReachTheLatches : Obligations.HostWriteDoesNotReachTheLatches := by
  intro s t addr v h hop hlo hhi hload
  obtain ⟨m, hm⟩ := stepCycle_withMem (s.mem.write addr v) (by simp [hop, hlo, hhi]) hload h
  exact ⟨{ t with mem := m }, hm, rfl⟩

end Sys2Proof.Machine
end

section
/-! PROOFS. The statements about the encoding (30_encoding.md): what stands in the operand latch after the operand
bytes, what the decoder answers, how an instruction and the latches it comes from determine each other, what the
opcode map says of each class, and the settled statements. -/

namespace Sys2Proof

/-! ### The operand latch that operand bytes leave -/

/-- The operand latch of an instruction with these operand bytes, low byte first (R103); what is not fetched is 0. -/
def operandLatch : List Byte → Addr
  | [] => 0#16
  | [lo] => concatBytes 0#8 lo
  | lo :: hi :: _ => concatBytes hi lo

/-- The latch keeps up to two operand bytes, so they can be read back from it. -/
theorem take_operandLatch (operands : List Byte) (h : operands.length ≤ 2) :
    [lowByte (operandLatch operands), highByte (operandLatch operands)].take operands.length = operands := by
  match operands, h with
  | [], _ => rfl
  | [lo], _ => simp [operandLatch]
  | [lo, hi], _ => simp [operandLatch]

theorem OpClass.operandBytes_le_two (c : OpClass) : c.operandBytes ≤ 2 := by
  cases c <;> decide

/-! ### What the decoder answers -/

/-- The decoder takes the operand bytes of the opcode's class off the front and reads the instruction from the opcode
and the latch they leave; it answers nothing else (R100-R104). -/
theorem decode_cons_eq_ok_iff (op : Byte) (bytes rest : List Byte) (i : Instr) :
    decode (op :: bytes) = .ok (i, rest) ↔ ∃ operands : List Byte,
      operands.length = (classOf op).operandBytes ∧ operands ++ rest = bytes ∧
        instrOf op (operandLatch operands) = i := by
  constructor
  · intro h
    obtain ⟨hlen, rfl, rfl⟩ | ⟨lo, hlen, rfl, rfl⟩ | ⟨lo, hi, hlen, rfl, rfl⟩ := decode_ok op bytes rest i h
    · exact ⟨[], hlen.symm, rfl, rfl⟩
    · exact ⟨[lo], hlen.symm, rfl, rfl⟩
    · exact ⟨[lo, hi], hlen.symm, rfl, rfl⟩
  · rintro ⟨operands, hlen, rfl, rfl⟩
    have hle : operands.length ≤ 2 := hlen ▸ (classOf op).operandBytes_le_two
    match operands, hle with
    | [], _ => simp [decode, ← hlen, operandLatch]
    | [lo], _ => simp [decode, ← hlen, operandLatch]
    | [lo, hi], _ => simp [decode, ← hlen, operandLatch]

/-- Every byte of an opcode's length is needed and no more: enough bytes decode, and what is left is the rest. -/
theorem exists_decode_cons_iff (op : Byte) (bytes : List Byte) :
    (∃ i rest, decode (op :: bytes) = .ok (i, rest) ∧ rest.length + opLength op = bytes.length + 1) ↔
      opLength op ≤ bytes.length + 1 := by
  constructor
  · rintro ⟨i, rest, -, hlen⟩
    omega
  · intro hle
    have hargs : (classOf op).operandBytes ≤ bytes.length := by unfold opLength at hle; omega
    refine ⟨_, bytes.drop (classOf op).operandBytes, (decode_cons_eq_ok_iff op bytes _ _).2
      ⟨bytes.take (classOf op).operandBytes, ?_, List.take_append_drop _ bytes, rfl⟩, ?_⟩
    · simpa using hargs
    · rw [List.length_drop, opLength]
      omega

/-! ### The instruction of an opcode and an operand latch -/

/-- The opcode map builds well-formed instructions only, and a byte of no row is undefined (R108). -/
theorem wf_instrOf (op : Byte) (operand : Addr) : (instrOf op operand).wf = true := by
  have hrows : ∀ r ∈ opcodeTable, (r.build operand).wf = true := by
    simp [opcodeTable, Instr.wf]
  unfold instrOf
  split
  case h_1 r hrow => exact hrows r (findRow_mem op r hrow).1
  case h_2 hnone =>
    have hundef := findRow_isNone_iff op
    rw [hnone] at hundef
    exact hundef.symm

/-- The operand bytes are the latch's bytes, low byte first, as many as the class has (R101-R104). -/
theorem operandBytes_instrOf (op : Byte) (operand : Addr) :
    (instrOf op operand).operandBytes =
      [lowByte operand, highByte operand].take (classOf op).operandBytes := by
  have hrows : ∀ r ∈ opcodeTable, (r.build operand).operandBytes =
      [lowByte operand, highByte operand].take r.cls.operandBytes := by
    simp [opcodeTable, Instr.operandBytes, OpClass.operandBytes]
  unfold instrOf classOf
  split
  case h_1 r hrow => exact hrows r (findRow_mem op r hrow).1
  case h_2 => rfl

/-- A well-formed instruction has as many operand bytes as the class of its opcode. -/
theorem length_operandBytes (i : Instr) (h : i.wf = true) :
    i.operandBytes.length = (classOf i.opcode).operandBytes := by
  cases i with
  | undef op =>
    have hundef : isUndefinedByte op = true := h
    simp [Instr.operandBytes, Instr.opcode, hundef, OpClass.operandBytes]
  | _ => rfl

/-- A well-formed instruction is the one its own opcode selects from the latch its operand bytes leave. -/
theorem instrOf_opcode_operandLatch (i : Instr) (h : i.wf = true) :
    instrOf i.opcode (operandLatch i.operandBytes) = i := by
  cases i with
  | undef op => exact instrOf_undefined op _ h
  | _ => simp [Instr.opcode, Instr.operandBytes, operandLatch]

/-- An instruction read from an opcode and its operand bytes has exactly these bytes as its encoding. -/
theorem encode_instrOf (op : Byte) (operands : List Byte) (h : operands.length = (classOf op).operandBytes) :
    encode (instrOf op (operandLatch operands)) = op :: operands := by
  have hle : operands.length ≤ 2 := h ▸ (classOf op).operandBytes_le_two
  rw [encode, opcode_instrOf, operandBytes_instrOf, ← h, take_operandLatch operands hle]

/-! ### The classes of the opcode map -/

theorem classOf_of_mem_opcodeTable : ∀ r ∈ opcodeTable, classOf r.opcode = r.cls := by decide

theorem cls_ne_undefined_of_mem_opcodeTable : ∀ r ∈ opcodeTable, r.cls ≠ .undefined := by decide

/-- The opcodes of a defined class are those of its rows (R107). -/
theorem classOf_eq_iff_exists_row (op : Byte) (c : OpClass) (hc : c ≠ .undefined) :
    classOf op = c ↔ ∃ r ∈ opcodeTable, r.cls = c ∧ op = r.opcode := by
  constructor
  · rintro rfl
    unfold classOf at hc ⊢
    split at hc
    case h_1 r hrow =>
      obtain ⟨hmem, hop⟩ := findRow_mem op r hrow
      exact ⟨r, hmem, rfl, hop.symm⟩
    case h_2 => exact absurd rfl hc
  · rintro ⟨r, hmem, rfl, rfl⟩
    exact classOf_of_mem_opcodeTable r hmem

/-- The undefined class is that of the bytes in the ranges of R108. -/
theorem classOf_eq_undefined_iff (op : Byte) : classOf op = .undefined ↔ isUndefinedByte op = true := by
  refine ⟨fun h => ?_, classOf_undefined op⟩
  rw [← findRow_isNone_iff op, Option.isNone_iff_eq_none]
  unfold classOf at h
  split at h
  case h_1 r hrow => exact absurd h (cls_ne_undefined_of_mem_opcodeTable r (findRow_mem op r hrow).1)
  case h_2 hnone => exact hnone

/-! ### How many bytes are undefined -/

/-- Every byte above the opcodes of the map is undefined, up to HLT (R108). -/
theorem isUndefinedByte_of_mem_range (n : Nat) (hn : n ∈ List.range' 0x36 201) :
    isUndefinedByte (BitVec.ofNat 8 n) = true := by
  have hbounds : 0x36 ≤ n ∧ n < 0x36 + 201 := List.mem_range'_1.1 hn
  simp only [isUndefinedByte, BitVec.toNat_ofNat, Bool.or_eq_true, Bool.and_eq_true, decide_eq_true_eq]
  omega

/-- The undefined bytes are 237: 36 in the gaps below 0x36, and all of the 201 from there to HLT. -/
theorem length_filter_isUndefinedByte :
    ((List.range 256).filter (fun n => isUndefinedByte (BitVec.ofNat 8 n))).length = 237 := by
  have hsplit : List.range 256 = List.range' 0 0x36 ++ (List.range' 0x36 201 ++ List.range' 0xFF 1) := by
    rw [List.range'_append_1, List.range'_append_1, List.range_eq_range']
  have hgaps : ((List.range' 0 0x36).filter (fun n => isUndefinedByte (BitVec.ofNat 8 n))).length = 36 := by decide
  have habove : (List.range' 0x36 201).filter (fun n => isUndefinedByte (BitVec.ofNat 8 n)) = List.range' 0x36 201 :=
    List.filter_eq_self.2 isUndefinedByte_of_mem_range
  have hhlt : (List.range' 0xFF 1).filter (fun n => isUndefinedByte (BitVec.ofNat 8 n)) = [] := by decide
  rw [hsplit, List.filter_append, List.filter_append, List.length_append, List.length_append, hgaps, habove, hhlt,
    List.length_range', List.length_nil]

/-! ### The words of the opcode table -/

/-- The decoder is what reads the instruction of a table word. -/
theorem decodeTableWord_eq_some_iff (nbits w : Nat) (i : Instr) :
    decodeTableWord nbits w = some i ↔ ∃ rest, decode (tableWordBytes nbits w) = .ok (i, rest) := by
  unfold decodeTableWord
  split
  case h_1 j rest hdecode => simp [hdecode]
  case h_2 e hdecode => simp [hdecode]

end Sys2Proof

namespace Sys2Proof.Machine

/-! ### An instruction word stored at PC -/

/-- A run of bytes no longer than memory reads back whole. -/
theorem Memory.readBytes_writeBytes (bytes : List Byte) (m : Memory) (a : Addr)
    (hlength : bytes.length ≤ 65536) : (m.writeBytes a bytes).readBytes a bytes.length = bytes := by
  induction bytes generalizing m a with
  | nil => rfl
  | cons v vs ih =>
    have hhead : (m.writeBytes a (v :: vs)).read a = v := by
      simpa using Memory.read_writeBytes_inside (v :: vs) m a 0 v hlength rfl
    have htail := ih (m.write a v) (a + 1#16) (by simp at hlength; omega)
    rw [List.length_cons, Memory.readBytes, hhead, Memory.writeBytes, htail]

/-! ### The settled statements -/

/-- Settles O1: the operand bytes of a well-formed instruction are those its opcode asks for, and the latch they leave
selects the instruction again. -/
theorem decodeOfEncodeIsIdentity : Obligations.DecodeOfEncodeIsIdentity :=
  fun i rest hwf => (decode_cons_eq_ok_iff i.opcode (i.operandBytes ++ rest) rest i).2
    ⟨i.operandBytes, length_operandBytes i hwf, rfl, instrOf_opcode_operandLatch i hwf⟩

/-- Settles O2: what the decoder answers comes from the opcode map, and its encoding is the operand bytes taken. -/
theorem decodedBytesAreTheEncoding : Obligations.DecodedBytesAreTheEncoding := by
  intro bytes rest i h
  cases bytes with
  | nil => cases h
  | cons op bytes =>
    obtain ⟨operands, hlen, rfl, rfl⟩ := (decode_cons_eq_ok_iff op bytes rest i).1 h
    exact ⟨wf_instrOf op _, by rw [encode_instrOf op operands hlen, List.cons_append]⟩

/-- Settles O3: the classes are read off the rows of the opcode map, the undefined bytes counted, and the decoder's
success comes from how many operand bytes it takes. -/
theorem opcodeByteFixesClassAndLength : Obligations.OpcodeByteFixesClassAndLength := by
  refine ⟨fun op => ⟨?_, ?_, ?_, classOf_eq_undefined_iff op⟩, length_filter_isUndefinedByte, fun op => ?_,
    exists_decode_cons_iff⟩
  · simp [classOf_eq_iff_exists_row, opcodeTable]
  · simp [classOf_eq_iff_exists_row, opcodeTable]
  · simp [classOf_eq_iff_exists_row, opcodeTable]
  · unfold opLength
    cases classOf op <;> rfl

/-- Settles O4: each sample is run through the decoder. -/
theorem sampleWordsDecodeAsTheMapSays : Obligations.SampleWordsDecodeAsTheMapSays := by
  unfold Obligations.SampleWordsDecodeAsTheMapSays
  decide

/-- Settles O35: the three bytes of the word read back at PC, where the decoder reads what it reads of the word. -/
theorem fetchWordIsWhatStepDecodes : Obligations.FetchWordIsWhatStepDecodes := by
  intro s nbits w i hflags hword
  obtain ⟨rest, hdecode⟩ := (decodeTableWord_eq_some_iff nbits w i).1 hword
  have hread : (s.withFetchWord nbits w).mem.readBytes (s.withFetchWord nbits w).pc 3 = tableWordBytes nbits w :=
    Memory.readBytes_writeBytes (tableWordBytes nbits w) s.mem s.pc (by simp [tableWordBytes])
  exact ⟨⟨⟨rfl, rfl, hflags⟩, rfl⟩, rest, hread ▸ hdecode⟩

end Sys2Proof.Machine
end

section
/-! PROOFS. The statements about the micro-steps (40_microengine.md R130-R141, R145): what each opcode's Execute ends
in and accesses, which classes have operand bytes, where a `step_cycle` stops, and the settled statements. -/

namespace Sys2Proof

/-! ### Operand bytes and the opcode map -/

/-- The opcodes with operand bytes: the immediate, absolute and indexed rows (30_encoding.md R107). -/
theorem operandBytes_classOf_eq_zero_iff (op : Byte) : (classOf op).operandBytes = 0 ↔
    op ∉ [0x10#8, 0x11#8, 0x33#8, 0x12#8, 0x13#8, 0x30#8, 0x31#8, 0x32#8, 0x34#8, 0x35#8] := by
  have hclass : (classOf op).operandBytes = 0 ↔
      ¬ (classOf op = .immediate ∨ classOf op = .absolute ∨ classOf op = .indexed) := by
    cases classOf op <;> decide
  rw [hclass]
  simp [classOf_eq_iff_exists_row, opcodeTable, and_assoc]

theorem classOf_eq_immediate_iff (op : Byte) : classOf op = .immediate ↔ op ∈ [0x10#8, 0x11#8, 0x33#8] := by
  simp [classOf_eq_iff_exists_row, opcodeTable]

end Sys2Proof

namespace Sys2Proof.Machine

/-! ### Execute, by the latched opcode -/

section Exec

variable {i : Instr} {s t : State}

/-- Which of the two ends of `exec_ends` it is: a halt for HLT and the undefined bytes, else WriteBack (R136). -/
theorem exec_ends_by_opcode (hwf : i.wf = true) (h : exec i s = .next t) :
    (haltingOpcode i.opcode → t.halted = true ∧ t.ustate = .halted) ∧
    (¬ haltingOpcode i.opcode → t.halted = s.halted ∧ t.ustate = .writeBack) := by
  cases i <;> cases h
  case hlt => exact ⟨fun _ => ⟨rfl, rfl⟩, fun hnot => absurd (.inl rfl) hnot⟩
  case undef op => exact ⟨fun _ => ⟨rfl, rfl⟩, fun hnot => absurd (.inr hwf) hnot⟩
  all_goals exact ⟨fun hhalts => absurd hhalts (by rw [Instr.opcode]; decide), fun _ => ⟨rfl, rfl⟩⟩

/-- The Bus Event of an instruction's Execute, if it has one (42_load_store.md R193-R196). -/
def execAccess (i : Instr) (s : State) : List BusEvent :=
  match i with
  | .ldaAbs addr => [⟨s.cycle, s.ustate, .read, addr, s.mem.read addr, .loadData⟩]
  | .ldaIdx addr => [⟨s.cycle, s.ustate, .read, indexedAddr addr s.x, s.mem.read (indexedAddr addr s.x), .loadData⟩]
  | .staAbs addr => [⟨s.cycle, s.ustate, .write, addr, s.a, .storeData⟩]
  | .staIdx addr => [⟨s.cycle, s.ustate, .write, indexedAddr addr s.x, s.a, .storeData⟩]
  | _ => []

theorem exec_events (h : exec i s = .next t) : t.events = s.events ++ execAccess i s := by
  cases i <;> cases h
  case ldaAbs | ldaIdx | staAbs | staIdx => rfl
  all_goals exact (List.append_nil s.events).symm

theorem execAccess_eq_nil (hop : i.opcode ∉ [0x12#8, 0x34#8, 0x13#8, 0x35#8]) : execAccess i s = [] := by
  cases i
  case ldaAbs | ldaIdx | staAbs | staIdx => exact absurd (by simp [Instr.opcode]) hop
  all_goals rfl

/-- The access of the latched instruction, by its opcode (R145). -/
theorem execAccess_instrOf (op : Byte) (operand : Addr) (s : State) : execAccess (instrOf op operand) s =
    if op = 0x12#8 then [⟨s.cycle, s.ustate, .read, operand, s.mem.read operand, .loadData⟩]
    else if op = 0x34#8 then
      [⟨s.cycle, s.ustate, .read, indexedAddr operand s.x, s.mem.read (indexedAddr operand s.x), .loadData⟩]
    else if op = 0x13#8 then [⟨s.cycle, s.ustate, .write, operand, s.a, .storeData⟩]
    else if op = 0x35#8 then [⟨s.cycle, s.ustate, .write, indexedAddr operand s.x, s.a, .storeData⟩]
    else [] := by
  split_ifs with habs hidx hsta hstx
  · rw [habs, instrOf_ldaAbs]; rfl
  · rw [hidx, instrOf_ldaIdx]; rfl
  · rw [hsta, instrOf_staAbs]; rfl
  · rw [hstx, instrOf_staIdx]; rfl
  · exact execAccess_eq_nil (by simp [habs, hidx, hsta, hstx])

end Exec

/-! ### What a transition outside Execute keeps, and who moves PC -/

section Transition

variable {s t : State}

/-- Outside Execute no transition writes A, B, X, FLAGS or memory (R141). -/
theorem transition_keeps_outside_execute (h : transition s = .next t) (hu : s.ustate ≠ .execute) :
    t.a = s.a ∧ t.b = s.b ∧ t.x = s.x ∧ t.flags = s.flags ∧ t.mem = s.mem := by
  rcases transition_next s t h with ⟨-, rfl⟩ | ⟨-, rfl⟩ | ⟨-, rfl⟩ | ⟨-, rfl⟩ | ⟨hexec, -⟩ | ⟨-, rfl⟩
  case inr.inr.inr.inr.inl => exact absurd hexec hu
  all_goals exact ⟨rfl, rfl, rfl, rfl, rfl⟩

/-- PC moves in the three fetches and in a jump's Execute only (R141). -/
theorem transition_pc_cases (h : transition s = .next t) :
    t.pc = s.pc ∨ s.ustate = .fetchOp ∨ s.ustate = .fetchOpLo ∨ s.ustate = .fetchOpHi ∨
      (s.ustate = .execute ∧ s.opcode ∈ [0x30#8, 0x31#8, 0x32#8]) := by
  rcases transition_next s t h with ⟨hu, -⟩ | ⟨-, rfl⟩ | ⟨hu, -⟩ | ⟨hu, -⟩ | ⟨hu, hexec⟩ | ⟨-, rfl⟩
  · exact .inr (.inl hu)
  · exact .inl rfl
  · exact .inr (.inr (.inl hu))
  · exact .inr (.inr (.inr (.inl hu)))
  · have hop : (instrOf s.opcode s.operand).opcode = s.opcode := opcode_instrOf s.opcode s.operand
    rcases exec_pc_cases hexec with hpc | ⟨addr, hjump⟩
    · exact .inl hpc
    · refine .inr (.inr (.inr (.inr ⟨hu, ?_⟩)))
      rcases hjump with hi | hi | hi <;> rw [← hop, hi] <;> simp [Instr.opcode]
  · exact .inl rfl

/-! ### Where a `step_cycle` stops -/

/-- The three micro-states of R138 have no transition. -/
theorem transition_unreachable (h : s.ustate.hasTransition = false) :
    transition s = .fault (.unreachableMicroState s.ustate) := by
  cases hu : s.ustate
  case halted | memRead | memWrite => simp [transition, hu]
  all_goals rw [hu] at h; cases h

theorem stepCycle_beforeReset (h : s.resetDone = false) : stepCycle s = .refused .beforeReset := by
  simp [stepCycle, h]

theorem stepCycle_reserved (hreset : s.resetDone = true) (hhalted : s.halted = false)
    (hflags : flagsReserved s.flags ≠ 0#4) : stepCycle s = .fault .reservedFlagBits := by
  simp [stepCycle, hreset, hhalted, hflags]

theorem stepCycle_unreachable (hrun : s.running) (h : s.ustate.hasTransition = false) :
    stepCycle s = .fault (.unreachableMicroState s.ustate) := by
  rw [stepCycle_running s hrun, transition_unreachable (s := { s with events := [] }) h, andThen_fault]

theorem stepCycle_completes (hrun : s.running) (h : s.ustate.hasTransition = true) :
    ∃ t, stepCycle s = .next t := by
  obtain ⟨u, hu⟩ := transition_completes { s with events := [] } h
  exact ⟨_, stepCycle_of_transition hrun hu⟩

/-- After the first reset no `step_cycle` is refused: it is idle, faults or completes. -/
theorem stepCycle_ne_refused (hreset : s.resetDone = true) (r : Refusal) : stepCycle s ≠ .refused r := by
  intro h
  cases hhalted : s.halted with
  | true => rw [stepCycle_halted hreset hhalted] at h; cases h
  | false =>
    by_cases hflags : flagsReserved s.flags = 0#4
    · cases hgo : s.ustate.hasTransition with
      | true =>
        obtain ⟨t, ht⟩ := stepCycle_completes ⟨hreset, hhalted, hflags⟩ hgo
        rw [ht] at h; cases h
      | false => rw [stepCycle_unreachable ⟨hreset, hhalted, hflags⟩ hgo] at h; cases h
    · rw [stepCycle_reserved hreset hhalted hflags] at h; cases h

theorem step_beforeReset (h : s.resetDone = false) : step s = .refused .beforeReset := by
  simp [step, stepInstr, h]

/-- A `step_cycle` of a running core made a transition (R131). -/
theorem stepCycle_next_of_running (hrun : s.running) (h : stepCycle s = .next t) :
    ∃ u, transition { s with events := [] } = .next u ∧ t = u.emitFrame s.cycle := by
  obtain ⟨-, hnot, -⟩ := hrun
  obtain ⟨-, ⟨hhalted, -⟩ | ⟨-, hmade⟩⟩ := stepCycle_next s t h
  · rw [hnot] at hhalted; cases hhalted
  · exact hmade

end Transition

/-! ### The settled statements -/

/-- Settles O25: FetchOp's equation; its event carries the micro-state the step started in. -/
theorem fetchOpTransition : Obligations.FetchOpTransition := by
  intro s hu
  rw [transition_fetchOp hu, ← hu]
  rfl

/-- Settles O26: Decode goes by whether the class has operand bytes. -/
theorem decodeAndWriteBackTransitions : Obligations.DecodeAndWriteBackTransitions := by
  refine ⟨fun s hu => ⟨_, transition_decode hu, rfl, ?_⟩, fun s hu => transition_writeBack hu⟩
  simp only [microDecode_ustate, operandBytes_classOf_eq_zero_iff, ite_not]

/-- Settles O27: each fetch's equation, and the half of the operand latch it keeps. -/
theorem operandFetchTransitions : Obligations.OperandFetchTransitions := by
  refine ⟨fun s hu => ⟨_, transition_fetchOpLo hu, ?_, lowByte_setOperandLo s.operand _,
    highByte_concatBytes (highByte s.operand) _, ?_⟩, fun s hu => ⟨_, transition_fetchOpHi hu, ?_,
    lowByte_concatBytes _ (lowByte s.operand), highByte_setOperandHi s.operand _⟩⟩
  · rw [← hu]; rfl
  · simp only [microFetchOpLo_ustate, classOf_eq_immediate_iff]
  · rw [← hu]; rfl

/-- Settles O28: the rows of the opcode map, then completion, end and access of the latched instruction. -/
theorem executeTransition : Obligations.ExecuteTransition := by
  refine ⟨fun o => ⟨instrOf_nop o, instrOf_ldaImm o, instrOf_ldbImm o, instrOf_ldxImm o, instrOf_ldaAbs o,
    instrOf_staAbs o, instrOf_ldaIdx o, instrOf_staIdx o, instrOf_addB o, instrOf_subB o, instrOf_andB o,
    instrOf_orB o, instrOf_xorB o, instrOf_incA o, instrOf_decA o, instrOf_jmpAbs o, instrOf_jzAbs o,
    instrOf_jnzAbs o, instrOf_hlt o, fun op h => instrOf_undefined op o h⟩, fun s hu => ?_⟩
  obtain ⟨t, ht⟩ := exec_completes (instrOf s.opcode s.operand) s
  obtain ⟨hhalts, hends⟩ := exec_ends_by_opcode (wf_instrOf s.opcode s.operand) ht
  have hop : (instrOf s.opcode s.operand).opcode = s.opcode := opcode_instrOf s.opcode s.operand
  have hevents : t.events = s.events ++ execAccess (instrOf s.opcode s.operand) s := exec_events ht
  rw [hop] at hhalts hends
  refine ⟨t, (transition_execute hu).trans ht, ht, hhalts, hends, ?_, ?_, fun hnone => ?_⟩
  · rintro (hload | hload) <;> rw [hload] at hevents <;> exact ⟨_, hevents, rfl⟩
  · rintro (hstore | hstore) <;> rw [hstore] at hevents <;> exact ⟨_, hevents, rfl⟩
  · rw [hevents, execAccess_eq_nil (hop.symm ▸ hnone), List.append_nil]

/-- Settles O29: the frame is taken of the state that the one transition leaves. -/
theorem stepCycleAppendsOneFrame : Obligations.StepCycleAppendsOneFrame := by
  intro s t hrun h
  obtain ⟨u, hu, rfl⟩ := stepCycle_next_of_running hrun h
  have heffect : TransitionEffect { s with events := [] } u := transition_effect hu
  refine ⟨u, hu, ?_, congrArg (· + 1) heffect.cycle_kept, rfl⟩
  rw [State.emitFrame_timeline, heffect.timeline_kept, ← lowByte_eq_ofNat]
  rfl

/-- Settles O30. -/
theorem haltedStepCycleDoesNothing : Obligations.HaltedStepCycleDoesNothing :=
  fun _ hreset hhalted => stepCycle_halted hreset hhalted

/-- Settles O31, one lemma for each stop; none but the missing reset is a refusal. -/
theorem stepCycleStopsExactlyWhenUnreachable : Obligations.StepCycleStopsExactlyWhenUnreachable := by
  intro s
  refine ⟨⟨stepCycle_beforeReset, fun hrefused => ?_⟩, step_beforeReset, stepCycle_reserved,
    fun hrun hu => stepCycle_unreachable hrun ?_,
    fun hrun hhalted hread hwrite => stepCycle_completes hrun ?_⟩
  · by_contra hreset
    exact stepCycle_ne_refused (by simpa using hreset) _ hrefused
  · rcases hu with hu | hu | hu <;> rw [hu] <;> rfl
  · exact (MicroState.hasTransition_iff s.ustate).2 ⟨hhalted, hread, hwrite⟩

/-- Settles O32: what the one transition keeps; an idle step keeps everything. -/
theorem microStepFrame : Obligations.MicroStepFrame := by
  intro s t h
  obtain ⟨-, ⟨-, rfl⟩ | ⟨-, u, hu, rfl⟩⟩ := stepCycle_next s t h
  · exact ⟨rfl, fun _ => ⟨rfl, rfl, rfl, rfl, fun _ => rfl⟩, fun hpc => absurd rfl hpc⟩
  · refine ⟨(transition_effect hu).sp_kept, fun hnot => ?_, (transition_pc_cases hu).resolve_left⟩
    obtain ⟨ha, hb, hx, hflags, hmem⟩ := transition_keeps_outside_execute hu hnot
    exact ⟨ha, hb, hx, hflags, fun addr => congrArg (·.read addr) hmem⟩

/-- Settles O33, by the micro-state of the transition; Execute's access goes by the opcode. -/
theorem busEventsOfEachMicroStep : Obligations.BusEventsOfEachMicroStep := by
  intro s t hrun h
  obtain ⟨u, hu, rfl⟩ := stepCycle_next_of_running hrun h
  rw [State.emitFrame_events]
  rcases transition_next _ u hu with ⟨hs, rfl⟩ | ⟨hs, rfl⟩ | ⟨hs, rfl⟩ | ⟨hs, rfl⟩ | ⟨hs, hexec⟩ | ⟨hs, rfl⟩
  case inr.inr.inr.inr.inl =>
    have hs : s.ustate = .execute := hs
    rw [exec_events hexec, execAccess_instrOf, List.nil_append]
    simp only [hs]
  all_goals
    have hs : s.ustate = _ := hs
    simp [hs]

end Sys2Proof.Machine
end

section
/-! PROOFS. The statements about the whole step (40_microengine.md R142-R144): runs of micro-steps by the micro-states
they enter, the run of one instruction from fetch to boundary, the bound on every run, and the settled statements. -/

namespace Sys2Proof

/-- An opcode selects its instruction by as many bytes of the operand latch as its class has, and by no other. -/
theorem instrOf_eq_operandLatch (op : Byte) (operand : Addr) : instrOf op operand =
    instrOf op (operandLatch ([lowByte operand, highByte operand].take (classOf op).operandBytes)) := by
  have hself := instrOf_opcode_operandLatch (instrOf op operand) (wf_instrOf op operand)
  rw [opcode_instrOf, operandBytes_instrOf] at hself
  exact hself.symm

end Sys2Proof

namespace Sys2Proof.Machine

/-- FetchOpHi keeps the low half of the operand latch (10_state.md R41). -/
@[simp] theorem lowByte_setOperandHi (operand : Addr) (d : Byte) :
    lowByte (setOperandHi operand d) = lowByte operand :=
  lowByte_concatBytes d _

/-- The first bytes of a longer reading are those of the shorter one. -/
theorem Memory.take_readBytes (m : Memory) (a : Addr) {k n : Nat} (h : k ≤ n) :
    (m.readBytes a n).take k = m.readBytes a k := by
  induction k generalizing a n with
  | zero => rfl
  | succ k ih =>
    obtain ⟨n, rfl⟩ : ∃ p, n = p + 1 := ⟨n - 1, by omega⟩
    rw [Memory.readBytes, List.take_succ_cons, ih (a + 1#16) (Nat.le_of_succ_le_succ h), Memory.readBytes]

/-! ### Runs of micro-steps -/

/-- The micro-states in which an instruction ends (00_scope.md R15). -/
def MicroState.endsInstr : MicroState → Bool
  | .fetchOp | .halted => true
  | .decode | .fetchOpLo | .fetchOpHi | .execute | .writeBack | .memRead | .memWrite => false

/-- `step_cycle`s of a running core, from `s` to `t`, by the micro-states they enter. -/
inductive MicroRun : State → List MicroState → State → Prop
  | nil (s : State) : MicroRun s [] s
  | cons {s u t : State} {v : MicroState} {us : List MicroState} (hrun : s.running) (hstep : stepCycle s = .next u)
      (hv : u.ustate = v) (hrest : MicroRun u us t) : MicroRun s (v :: us) t

/-- A micro-state that ends an instruction stands at the end of the list, and nowhere else in it. -/
def boundaryAtEnd : List MicroState → Bool
  | [] => false
  | v :: us => if v.endsInstr then us.isEmpty else boundaryAtEnd us

section Run

variable {s t u : State} {us vs : List MicroState}

/-- A running core's step halts it exactly by entering Halted, so the micro-state alone tells a boundary. -/
theorem stepCycle_atBoundary (hrun : s.running) (h : stepCycle s = .next t) :
    t.atBoundary = t.ustate.endsInstr := by
  obtain ⟨w, hw, rfl⟩ := stepCycle_next_of_running hrun h
  have hhalted : w.halted = true ↔ w.ustate = .halted := (transition_effect hw).halted_iff hrun.2.1
  rw [State.atBoundary, State.emitFrame_halted, State.emitFrame_ustate, Bool.eq_iff_iff, Bool.or_eq_true, hhalted]
  cases w.ustate <;> decide

theorem stepCycle_keeps_resetDone (s t : State) (hs : s.resetDone = true) (h : stepCycle s = .next t) :
    t.resetDone = true := by
  rcases stepCycle_effect h with rfl | ⟨-, w, hw, rfl⟩
  · exact hs
  · exact hw.resetDone_kept.trans hs

theorem stepCycle_keeps_running (hrun : s.running) (h : stepCycle s = .next t) (hhalted : t.halted = false) :
    t.running := by
  obtain ⟨w, hw, rfl⟩ := stepCycle_next_of_running hrun h
  obtain ⟨hreset, -, hflags⟩ := hrun
  have heffect : TransitionEffect { s with events := [] } w := transition_effect hw
  exact ⟨heffect.resetDone_kept.trans hreset, hhalted, heffect.reserved_kept.trans hflags⟩

theorem MicroRun.append (hst : MicroRun s us t) (htu : MicroRun t vs u) : MicroRun s (us ++ vs) u := by
  induction hst with
  | nil _ => exact htu
  | cons hrun hstep hv _ ih => exact .cons hrun hstep hv (ih htu)

theorem MicroRun.cycles (h : MicroRun s us t) : cycles us.length s = .next t := by
  induction h with
  | nil _ => rfl
  | cons _ hstep _ _ ih => rw [List.length_cons, Machine.cycles, hstep, andThen_next, ih]

/-- One frame for each micro-step, showing the micro-state it entered, and one count of `cycle`. -/
theorem MicroRun.frames (h : MicroRun s us t) : ∃ frames : List TraceFrame,
    t.timeline = s.timeline ++ frames ∧ frames.map TraceFrame.ustate = us ∧ t.cycle = s.cycle + us.length := by
  induction h with
  | nil s => exact ⟨[], (List.append_nil _).symm, rfl, rfl⟩
  | @cons s u t v us hrun hstep hv _ ih =>
    obtain ⟨frames, htimeline, hmap, hcycle⟩ := ih
    obtain ⟨w, hw, rfl⟩ := stepCycle_next_of_running hrun hstep
    have heffect : TransitionEffect { s with events := [] } w := transition_effect hw
    refine ⟨w.frame s.cycle :: frames, ?_, ?_, ?_⟩
    · rw [htimeline, State.emitFrame_timeline, heffect.timeline_kept, List.append_assoc, List.singleton_append]
    · rw [List.map_cons, hmap, ← hv]; rfl
    · rw [hcycle, State.emitFrame_cycle, heffect.cycle_kept, List.length_cons, Nat.add_assoc, Nat.add_comm 1]

/-- The first step of a run that ends at its first boundary: it ends the run, or it goes on from no boundary. -/
theorem MicroRun.cons_boundary {v : MicroState} (h : MicroRun s (v :: us) t) (hend : boundaryAtEnd (v :: us) = true) :
    ∃ w, stepCycle s = .next w ∧ ((w.atBoundary = true ∧ us = [] ∧ w = t) ∨
      (w.atBoundary = false ∧ boundaryAtEnd us = true ∧ MicroRun w us t)) := by
  cases h with
  | @cons _ w _ _ _ hrun hstep hv hrest =>
    refine ⟨w, hstep, ?_⟩
    rw [stepCycle_atBoundary hrun hstep, hv]
    cases hends : v.endsInstr with
    | true =>
      obtain rfl : us = [] := by simpa [boundaryAtEnd, hends] using hend
      cases hrest
      exact .inl ⟨rfl, rfl, rfl⟩
    | false => exact .inr ⟨rfl, by simpa [boundaryAtEnd, hends] using hend, hrest⟩

theorem MicroRun.atBoundary (h : MicroRun s us t) (hend : boundaryAtEnd us = true) : t.atBoundary = true := by
  induction us generalizing s with
  | nil => cases hend
  | cons v us ih =>
    obtain ⟨w, -, ⟨hb, -, rfl⟩ | ⟨-, hend', hrest⟩⟩ := h.cons_boundary hend
    · exact hb
    · exact ih hrest hend'

/-- `toBoundary` stops where a run that ends at its first boundary does. -/
theorem MicroRun.toBoundary (h : MicroRun s us t) (hend : boundaryAtEnd us = true) {n : Nat} (hn : us.length ≤ n) :
    toBoundary n s = .next t := by
  induction us generalizing s n with
  | nil => cases hend
  | cons v us ih =>
    obtain ⟨n, rfl⟩ : ∃ m, n = m + 1 := ⟨n - 1, by simp at hn; omega⟩
    obtain ⟨w, hstep, ⟨hb, -, rfl⟩ | ⟨hb, hend', hrest⟩⟩ := h.cons_boundary hend
    · rw [toBoundary_succ, hstep, andThen_next, if_pos hb]
    · rw [toBoundary_succ, hstep, andThen_next, hb, if_neg Bool.false_ne_true,
        ih hrest hend' (Nat.le_of_succ_le_succ hn)]

/-- None of its micro-steps but the last ends at a boundary. -/
theorem MicroRun.atBoundary_before (h : MicroRun s us t) (hend : boundaryAtEnd us = true) {j : Nat} (hj : 1 ≤ j)
    (hlt : j < us.length) (hu : Machine.cycles j s = .next u) : u.atBoundary = false := by
  induction us generalizing s j with
  | nil => cases hend
  | cons v us ih =>
    obtain ⟨j, rfl⟩ : ∃ m, j = m + 1 := ⟨j - 1, by omega⟩
    obtain ⟨w, hstep, ⟨-, rfl, -⟩ | ⟨hb, hend', hrest⟩⟩ := h.cons_boundary hend
    · simp at hlt
    · rw [Machine.cycles, hstep, andThen_next] at hu
      cases j with
      | zero => cases hu; exact hb
      | succ j => exact ih hrest hend' (Nat.succ_pos j) (Nat.lt_of_succ_lt_succ hlt) hu

end Run

/-! ### The phases of `step_instr` -/

section Step

variable {s t : State}

theorem State.atBoundary_iff (s : State) : s.atBoundary = true ↔ s.ustate = .fetchOp ∨ s.halted = true := by
  simp [State.atBoundary]

theorem step_halted (hreset : s.resetDone = true) (hhalted : s.halted = true) : step s = .next s := by
  simp [step, stepInstr, hreset, hhalted]

/-- From FetchOp there is nothing to drain (R142). -/
theorem step_fetchOp (hreset : s.resetDone = true) (hhalted : s.halted = false) (hu : s.ustate = .fetchOp) :
    step s = toBoundary maxInstrCycles s := by
  simp [step, stepInstr, drain, hreset, hhalted, hu]

/-- From any other micro-state a step drains first, then runs one instruction unless the drain halted (R142). -/
theorem step_mid (hreset : s.resetDone = true) (hhalted : s.halted = false) (hu : s.ustate ≠ .fetchOp) :
    step s = andThen (toBoundary maxDrainCycles s) fun t =>
      if t.halted = true then .next t else toBoundary maxInstrCycles t := by
  simp [step, stepInstr, drain, hreset, hhalted, hu]

/-- A drained step is the step from where its drain ended. -/
theorem step_of_drain (hreset : s.resetDone = true) (hhalted : s.halted = false) (hu : s.ustate ≠ .fetchOp)
    (hdrain : toBoundary maxDrainCycles s = .next t) (hb : t.atBoundary = true) : step s = step t := by
  have hreset' : t.resetDone = true :=
    toBoundary_keeps (·.resetDone = true) stepCycle_keeps_resetDone _ s t hreset hdrain
  rw [step_mid hreset hhalted hu, hdrain, andThen_next]
  cases hh : t.halted with
  | true => rw [if_pos rfl, step_halted hreset' hh]
  | false =>
    have hu' : t.ustate = .fetchOp := by simpa [hh] using (State.atBoundary_iff t).1 hb
    rw [if_neg Bool.false_ne_true, step_fetchOp hreset' hh hu']

theorem resetDone_of_step_next (h : step s = .next t) : s.resetDone = true := by
  by_contra hnot
  rw [step_beforeReset (by simpa using hnot)] at h
  cases h

/-- A step that answers next from the middle of an instruction got through its drain. -/
theorem drain_of_step_next (hhalted : s.halted = false) (hu : s.ustate ≠ .fetchOp) (h : step s = .next t) :
    ∃ m, toBoundary maxDrainCycles s = .next m := by
  rw [step_mid (resetDone_of_step_next h) hhalted hu, andThen_eq_next] at h
  obtain ⟨m, hm, -⟩ := h
  exact ⟨m, hm⟩

end Step

/-! ### Every run reaches a boundary -/

/-- How many micro-steps bring the engine to its next boundary at most (R143). The last three have no transition. -/
def MicroState.cyclesLeft : MicroState → Nat
  | .fetchOp => 6
  | .decode => 5
  | .fetchOpLo => 4
  | .fetchOpHi => 3
  | .execute => 2
  | .writeBack => 1
  | .halted | .memRead | .memWrite => 0

theorem MicroState.cyclesLeft_pos {v : MicroState} (h : v.hasTransition = true) : 0 < v.cyclesLeft := by
  cases v
  case halted | memRead | memWrite => cases h
  all_goals exact Nat.succ_pos _

section Bound

variable {s t : State}

/-- A transition ends the instruction or leaves fewer micro-steps to its end. -/
theorem transition_advances (h : transition s = .next t) :
    t.ustate.endsInstr = true ∨ (t.ustate.endsInstr = false ∧ t.ustate.cyclesLeft < s.ustate.cyclesLeft) := by
  rcases transition_next s t h with ⟨hu, rfl⟩ | ⟨hu, rfl⟩ | ⟨hu, rfl⟩ | ⟨hu, rfl⟩ | ⟨hu, hexec⟩ | ⟨hu, rfl⟩
  · rw [hu, microFetchOp_ustate]; exact .inr (by decide)
  · rw [hu, microDecode_ustate]; split <;> exact .inr (by decide)
  · rw [hu, microFetchOpLo_ustate]; split <;> exact .inr (by decide)
  · rw [hu, microFetchOpHi_ustate]; exact .inr (by decide)
  · rcases exec_ends _ s t hexec with ⟨-, hv⟩ | ⟨-, hv⟩
    · rw [hu, hv]; exact .inr (by decide)
    · rw [hv]; exact .inl rfl
  · exact .inl rfl

/-- A running core in a micro-state that has a transition runs to its next boundary within `cyclesLeft`. -/
theorem exists_run_to_boundary (n : Nat) (hrun : s.running) (hgo : s.ustate.hasTransition = true)
    (hn : s.ustate.cyclesLeft ≤ n) : ∃ us t, MicroRun s us t ∧ boundaryAtEnd us = true ∧ us.length ≤ n := by
  induction n generalizing s with
  | zero => have := MicroState.cyclesLeft_pos hgo; omega
  | succ n ih =>
    obtain ⟨w, hw⟩ := transition_completes { s with events := [] } hgo
    have hstep : stepCycle s = .next (w.emitFrame s.cycle) := stepCycle_of_transition hrun hw
    rcases transition_advances hw with hends | ⟨hmid, hless⟩
    · exact ⟨[w.ustate], _, .cons hrun hstep rfl (.nil _), by simp [boundaryAtEnd, hends], by simp⟩
    · have hnext : w.halted = false ∧ w.ustate.hasTransition = true := by
        rcases (transition_effect hw).halt_cases with ⟨hkept, hgo'⟩ | ⟨-, hv⟩
        · exact ⟨hkept.trans hrun.2.1, hgo'⟩
        · rw [hv] at hmid; cases hmid
      have hle : w.ustate.cyclesLeft ≤ n := Nat.le_of_lt_succ (Nat.lt_of_lt_of_le hless hn)
      obtain ⟨us, t, hrest, hend, hlen⟩ := ih (stepCycle_keeps_running hrun hstep hnext.1) hnext.2 hle
      exact ⟨w.ustate :: us, t, .cons hrun hstep rfl hrest, by simpa [boundaryAtEnd, hmid] using hend,
        Nat.succ_le_succ hlen⟩

/-- A core that makes a step at all was halted, or running in a micro-state that has a transition. -/
theorem running_of_stepCycle_next (hhalted : s.halted = false) (h : stepCycle s = .next t) :
    s.running ∧ s.ustate.hasTransition = true := by
  obtain ⟨-, ⟨hnot, -⟩ | ⟨hrun, -⟩⟩ := stepCycle_next s t h
  · rw [hhalted] at hnot; cases hnot
  · refine ⟨hrun, ?_⟩
    by_contra hgo
    rw [stepCycle_unreachable hrun (Bool.eq_false_iff.2 hgo)] at h
    cases h

/-- With enough micro-steps allowed, what `toBoundary` answers next is at a boundary. -/
theorem toBoundary_ends {n : Nat} (hhalted : s.halted = false) (hn : s.ustate.cyclesLeft ≤ n + 1)
    (h : toBoundary (n + 1) s = .next t) : t.atBoundary = true := by
  obtain ⟨w, hw, -⟩ := (andThen_eq_next _ _ _).1 h
  obtain ⟨hrun, hgo⟩ := running_of_stepCycle_next hhalted hw
  obtain ⟨us, t', hmicro, hend, hlen⟩ := exists_run_to_boundary (n + 1) hrun hgo hn
  obtain rfl : t' = t := Host.Outcome.next.inj ((hmicro.toBoundary hend hlen).symm.trans h)
  exact hmicro.atBoundary hend

theorem MicroState.cyclesLeft_le_maxInstrCycles (v : MicroState) : v.cyclesLeft ≤ maxInstrCycles := by
  cases v <;> decide

theorem MicroState.cyclesLeft_le_maxDrainCycles {v : MicroState} (h : v ≠ .fetchOp) :
    v.cyclesLeft ≤ maxDrainCycles := by
  cases v
  case fetchOp => exact absurd rfl h
  all_goals decide

/-- A step from a boundary ends at one. -/
theorem step_of_atBoundary_ends (hreset : s.resetDone = true) (hb : s.atBoundary = true) (h : step s = .next t) :
    t.atBoundary = true := by
  cases hhalted : s.halted with
  | true =>
    obtain rfl : s = t := Host.Outcome.next.inj ((step_halted hreset hhalted).symm.trans h)
    exact hb
  | false =>
    have hu : s.ustate = .fetchOp := by simpa [hhalted] using (State.atBoundary_iff s).1 hb
    rw [step_fetchOp hreset hhalted hu] at h
    exact toBoundary_ends hhalted s.ustate.cyclesLeft_le_maxInstrCycles h

end Bound

/-! ### The run of one instruction -/

/-- From `s` to `e` nothing changed but PC, the latches, the micro-state and the trace: what fetching does. -/
def OnlyFetches (s e : State) : Prop :=
  e = { s with pc := e.pc, opcode := e.opcode, operand := e.operand, ustate := e.ustate, cycle := e.cycle,
               timeline := e.timeline, events := e.events }

/-- The micro-states after Decode, up to Execute (R144). -/
def operandPath : OpClass → List MicroState
  | .implied | .undefined => [.execute]
  | .immediate => [.fetchOpLo, .execute]
  | .absolute | .indexed => [.fetchOpLo, .fetchOpHi, .execute]

/-- The micro-states after Execute (R136, R137). -/
def executePath (op : Byte) : List MicroState :=
  if haltingOpcode op then [.halted] else [.writeBack, .fetchOp]

/-- The micro-states of a whole instruction from its boundary (R144). -/
def instrPath (op : Byte) : List MicroState := .decode :: operandPath (classOf op) ++ executePath op

theorem length_operandPath (c : OpClass) : (operandPath c).length = c.operandBytes + 1 := by
  cases c <;> rfl

theorem boundaryAtEnd_instrPath (op : Byte) : boundaryAtEnd (instrPath op) = true := by
  unfold instrPath executePath
  cases classOf op <;> split <;> rfl

theorem length_instrPath_le (op : Byte) : (instrPath op).length ≤ maxInstrCycles := by
  unfold instrPath executePath
  cases classOf op <;> split <;> decide

/-- A halting opcode has no operand bytes (30_encoding.md R107, R108). -/
theorem operandPath_of_halting {op : Byte} (h : haltingOpcode op) : operandPath (classOf op) = [.execute] := by
  rcases h with rfl | hundef
  · rfl
  · rw [classOf_undefined op hundef]; rfl

/-- Fetched up to Execute: opcode `op` latched, and the operand bytes from `base` on, as many as its class has. -/
structure Fetched (op : Byte) (base : Addr) (s e : State) : Prop where
  kept : OnlyFetches s e
  ustate : e.ustate = .execute
  opcode : e.opcode = op
  pc : e.pc = base + BitVec.ofNat 16 (classOf op).operandBytes
  latch : [lowByte e.operand, highByte e.operand].take (classOf op).operandBytes =
    s.mem.readBytes base (classOf op).operandBytes

section Instruction

variable {s e t : State}

theorem OnlyFetches.trans (hst : OnlyFetches s e) (het : OnlyFetches e t) : OnlyFetches s t := by
  unfold OnlyFetches at *
  rw [het, hst]

theorem OnlyFetches.running (h : OnlyFetches s e) (hrun : s.running) : e.running := by
  unfold OnlyFetches at h
  rw [h]
  exact hrun

theorem OnlyFetches.mem (h : OnlyFetches s e) : e.mem = s.mem := by
  unfold OnlyFetches at h
  rw [h]

/-! One `step_cycle` in each of the micro-states before Execute, by what it does to PC and the latches. -/

theorem exists_fetchOp_step (hrun : s.running) (hu : s.ustate = .fetchOp) :
    ∃ u, stepCycle s = .next u ∧ OnlyFetches s u ∧ u.opcode = s.mem.read s.pc ∧ u.pc = s.pc + 1#16 ∧
      u.operand = s.operand ∧ u.ustate = .decode :=
  ⟨_, stepCycle_of_transition hrun (transition_fetchOp hu), rfl, rfl, rfl, rfl, rfl⟩

theorem exists_decode_step (hrun : s.running) (hu : s.ustate = .decode) :
    ∃ u, stepCycle s = .next u ∧ OnlyFetches s u ∧ u.opcode = s.opcode ∧ u.pc = s.pc ∧ u.operand = s.operand ∧
      u.ustate = if (classOf s.opcode).operandBytes = 0 then .execute else .fetchOpLo :=
  ⟨_, stepCycle_of_transition hrun (transition_decode hu), rfl, rfl, rfl, rfl, microDecode_ustate _⟩

theorem exists_fetchOpLo_step (hrun : s.running) (hu : s.ustate = .fetchOpLo) :
    ∃ u, stepCycle s = .next u ∧ OnlyFetches s u ∧ u.opcode = s.opcode ∧ u.pc = s.pc + 1#16 ∧
      u.operand = setOperandLo s.operand (s.mem.read s.pc) ∧
      u.ustate = if classOf s.opcode = .immediate then .execute else .fetchOpHi :=
  ⟨_, stepCycle_of_transition hrun (transition_fetchOpLo hu), rfl, rfl, rfl, rfl, rfl⟩

theorem exists_fetchOpHi_step (hrun : s.running) (hu : s.ustate = .fetchOpHi) :
    ∃ u, stepCycle s = .next u ∧ OnlyFetches s u ∧ u.opcode = s.opcode ∧ u.pc = s.pc + 1#16 ∧
      u.operand = setOperandHi s.operand (s.mem.read s.pc) ∧ u.ustate = .execute :=
  ⟨_, stepCycle_of_transition hrun (transition_fetchOpHi hu), rfl, rfl, rfl, rfl, rfl⟩

/-- From Decode the operand bytes are latched, and the engine comes to Execute (R133-R135). -/
theorem exists_operand_run (hrun : s.running) (hu : s.ustate = .decode) :
    ∃ e, MicroRun s (operandPath (classOf s.opcode)) e ∧ Fetched s.opcode s.pc s e := by
  obtain ⟨u, hstep, hkept, hop, hpc, hoperand, hgoes⟩ := exists_decode_step hrun hu
  have hrunU : u.running := hkept.running hrun
  cases hclass : classOf s.opcode
  case implied | undefined =>
    have hgoes : u.ustate = .execute := by simpa [hclass, OpClass.operandBytes] using hgoes
    exact ⟨u, .cons hrun hstep hgoes (.nil u), hkept, hgoes, hop, by simp [hclass, OpClass.operandBytes, hpc],
      by simp [hclass, OpClass.operandBytes, Memory.readBytes]⟩
  case immediate =>
    have hgoes : u.ustate = .fetchOpLo := by simpa [hclass, OpClass.operandBytes] using hgoes
    obtain ⟨v, hstepLo, hkeptLo, hopLo, hpcLo, hoperandLo, hgoesLo⟩ := exists_fetchOpLo_step hrunU hgoes
    have hgoesLo : v.ustate = .execute := by simpa [hop, hclass] using hgoesLo
    exact ⟨v, .cons hrun hstep hgoes (.cons hrunU hstepLo hgoesLo (.nil v)), hkept.trans hkeptLo, hgoesLo,
      hopLo.trans hop, by simp [hclass, OpClass.operandBytes, hpcLo, hpc],
      by simp [hclass, OpClass.operandBytes, Memory.readBytes, hoperandLo, hkept.mem, hpc]⟩
  case absolute | indexed =>
    have hgoes : u.ustate = .fetchOpLo := by simpa [hclass, OpClass.operandBytes] using hgoes
    obtain ⟨v, hstepLo, hkeptLo, hopLo, hpcLo, hoperandLo, hgoesLo⟩ := exists_fetchOpLo_step hrunU hgoes
    have hgoesLo : v.ustate = .fetchOpHi := by simpa [hop, hclass] using hgoesLo
    have hkeptV : OnlyFetches s v := hkept.trans hkeptLo
    have hrunV : v.running := hkeptV.running hrun
    obtain ⟨e, hstepHi, hkeptHi, hopHi, hpcHi, hoperandHi, hgoesHi⟩ := exists_fetchOpHi_step hrunV hgoesLo
    exact ⟨e, .cons hrun hstep hgoes (.cons hrunU hstepLo hgoesLo (.cons hrunV hstepHi hgoesHi (.nil e))),
      hkeptV.trans hkeptHi, hgoesHi, hopHi.trans (hopLo.trans hop),
      by simp [hclass, OpClass.operandBytes, hpcHi, hpcLo, hpc, BitVec.add_assoc],
      by simp [hclass, OpClass.operandBytes, Memory.readBytes, hoperandHi, hoperandLo, hkeptV.mem, hkept.mem, hpcLo,
        hpc]⟩

/-- What Execute and the WriteBack after it make of a state in Execute (R136, R137, R142). -/
def executeToBoundary (s : State) : Host.Outcome State Fault Refusal :=
  andThen (exec (instrOf s.opcode s.operand) { s with events := [] }) fun t =>
    if t.halted = true then .next (t.emitFrame s.cycle) else stepCycle (t.emitFrame s.cycle)

/-- From Execute a run ends the instruction: at once if it halts, else with WriteBack. -/
theorem exists_execute_run (hrun : s.running) (hu : s.ustate = .execute) :
    ∃ t, MicroRun s (executePath s.opcode) t ∧ executeToBoundary s = .next t := by
  obtain ⟨w, hw⟩ := exec_completes (instrOf s.opcode s.operand) { s with events := [] }
  obtain ⟨hhalts, hends⟩ := exec_ends_by_opcode (wf_instrOf s.opcode s.operand) hw
  have hstep : stepCycle s = .next (w.emitFrame s.cycle) :=
    stepCycle_of_transition hrun ((transition_execute (s := { s with events := [] }) hu).trans hw)
  rw [opcode_instrOf] at hhalts hends
  rw [executeToBoundary, executePath, hw, andThen_next]
  by_cases hop : haltingOpcode s.opcode
  · obtain ⟨hhalted, hv⟩ := hhalts hop
    rw [if_pos hop, if_pos hhalted]
    exact ⟨_, .cons hrun hstep hv (.nil _), rfl⟩
  · obtain ⟨hkept, hv⟩ := hends hop
    have hhalted : w.halted = false := hkept.trans hrun.2.1
    have hrun' : (w.emitFrame s.cycle).running := stepCycle_keeps_running hrun hstep hhalted
    have hback := stepCycle_of_transition hrun' (transition_writeBack hv)
    rw [if_neg hop, hhalted, if_neg Bool.false_ne_true]
    exact ⟨_, .cons hrun hstep hv (.cons hrun' hback rfl (.nil _)), hback⟩

/-- From a boundary the instruction at PC is fetched, and the engine comes to Execute (R132-R135). -/
theorem exists_fetch_run (h : s.ready) : ∃ e,
    MicroRun s (.decode :: operandPath (classOf (s.mem.read s.pc))) e ∧
      Fetched (s.mem.read s.pc) (s.pc + 1#16) s e := by
  obtain ⟨hrun, hu⟩ := h
  obtain ⟨u, hstep, hkept, hop, hpc, -, hgoes⟩ := exists_fetchOp_step hrun hu
  obtain ⟨e, hoperands, hfetched⟩ := exists_operand_run (hkept.running hrun) hgoes
  rw [hop] at hoperands
  rw [hop, hpc] at hfetched
  exact ⟨e, .cons hrun hstep hgoes hoperands, hkept.trans hfetched.kept, hfetched.ustate, hfetched.opcode, hfetched.pc,
    by rw [hfetched.latch, hkept.mem]⟩

/-- A step from a boundary is the fetch, then Execute to the next boundary. -/
theorem exists_instruction_run {base : Addr} (h : s.ready)
    (hfetch : MicroRun s (.decode :: operandPath (classOf (s.mem.read s.pc))) e)
    (hfetched : Fetched (s.mem.read s.pc) base s e) :
    ∃ t, MicroRun s (instrPath (s.mem.read s.pc)) t ∧ executeToBoundary e = .next t ∧ step s = .next t := by
  obtain ⟨hrun, hu⟩ := h
  obtain ⟨t, hexecute, ht⟩ := exists_execute_run (hfetched.kept.running hrun) hfetched.ustate
  rw [hfetched.opcode] at hexecute
  have hwhole : MicroRun s (instrPath (s.mem.read s.pc)) t := hfetch.append hexecute
  refine ⟨t, hwhole, ht, ?_⟩
  rw [step_fetchOp hrun.1 hrun.2.1 hu]
  exact hwhole.toBoundary (boundaryAtEnd_instrPath _) (length_instrPath_le _)

/-- What fetching leaves of the observation (10_state.md R51). -/
theorem OnlyFetches.observe (h : OnlyFetches s e) : e.observe =
    { s.observe with pc := e.pc, ustate := e.ustate, cycle := e.cycle, timeline := e.timeline } :=
  congrArg State.observe h

/-- The latches hold the instruction that the decoder reads from the bytes at PC (30_encoding.md R100-R104). -/
theorem Fetched.instrOf_eq {op : Byte} {base : Addr} {i : Instr} {rest : List Byte} {n : Nat}
    (h : Fetched op base s e) (hle : (classOf op).operandBytes ≤ n)
    (hdecode : decode (op :: s.mem.readBytes base n) = .ok (i, rest)) : instrOf e.opcode e.operand = i := by
  obtain ⟨operands, hlen, hbytes, hi⟩ := (decode_cons_eq_ok_iff _ _ _ _).1 hdecode
  have hoperands : operands = s.mem.readBytes base (classOf op).operandBytes := by
    rw [← Memory.take_readBytes s.mem base hle, ← hbytes, ← hlen, List.take_left']
    rfl
  rw [instrOf_eq_operandLatch, h.opcode, h.latch, ← hoperands, hi]

end Instruction

/-! ### The settled statements -/

/-- Settles O34: the latches that fetching leaves select what the decoder reads from the same bytes. -/
theorem stepRunsTheDecodedInstruction : Obligations.StepRunsTheDecodedInstruction := by
  intro s i rest hready hdecode
  obtain ⟨e, hfetch, hfetched⟩ := exists_fetch_run hready
  obtain ⟨t, -, hends, hstep⟩ := exists_instruction_run hready hfetch hfetched
  have hlen : (MicroState.decode :: operandPath (classOf (s.mem.read s.pc))).length =
      opLength (s.mem.read s.pc) + 1 := by
    rw [List.length_cons, length_operandPath, opLength, Nat.add_comm 1]
  obtain ⟨-, -, -, hcycle⟩ := hfetch.frames
  have hpcE : e.pc = s.pc + BitVec.ofNat 16 (opLength (s.mem.read s.pc)) := by
    rw [hfetched.pc, opLength, BitVec.add_assoc, BitVec.ofNat_add]
  have hinstr : instrOf e.opcode e.operand = i :=
    hfetched.instrOf_eq (OpClass.operandBytes_le_two _) hdecode
  refine ⟨e, hlen ▸ hfetch.cycles, ?_, hfetched.opcode, hinstr, ?_⟩
  · rw [hfetched.kept.observe, hpcE, hfetched.ustate, hcycle, hlen]
  · rw [hstep, ← hends, executeToBoundary, hinstr]

/-- Settles O36: a drain that answers next ends at a boundary, and so does the instruction after it. -/
theorem stepEndsAtAnInstructionBoundary : Obligations.StepEndsAtAnInstructionBoundary := by
  intro s t h
  have hreset : s.resetDone = true := resetDone_of_step_next h
  rw [← State.atBoundary_iff]
  cases hb : s.atBoundary with
  | true => exact step_of_atBoundary_ends hreset hb h
  | false =>
    obtain ⟨hu, hhalted⟩ : s.ustate ≠ .fetchOp ∧ s.halted = false := by simpa [State.atBoundary] using hb
    obtain ⟨m, hm⟩ := drain_of_step_next hhalted hu h
    have hbm : m.atBoundary = true := toBoundary_ends hhalted (MicroState.cyclesLeft_le_maxDrainCycles hu) hm
    rw [step_of_drain hreset hhalted hu hm hbm] at h
    exact step_of_atBoundary_ends (resetDone_of_step_next h) hbm h

/-- Settles O37: the drain is the run to the next boundary, and the step goes on from there. -/
theorem midInstructionStepDrainsThenRunsOne : Obligations.MidInstructionStepDrainsThenRunsOne := by
  intro s hrun hu
  have hmiddle : ∀ v ∈ [MicroState.decode, .fetchOpLo, .fetchOpHi, .execute, .writeBack],
      v ≠ .fetchOp ∧ v.hasTransition = true := by decide
  obtain ⟨hnot, hgo⟩ := hmiddle s.ustate hu
  obtain ⟨us, m, hmicro, hend, hlen⟩ :=
    exists_run_to_boundary maxDrainCycles hrun hgo (MicroState.cyclesLeft_le_maxDrainCycles hnot)
  have hpos : 1 ≤ us.length := List.length_pos_of_ne_nil (by rintro rfl; cases hend)
  have hb : m.atBoundary = true := hmicro.atBoundary hend
  exact ⟨us.length, m, hpos, hlen, hmicro.cycles, hb, fun j t hj hlt ht => hmicro.atBoundary_before hend hj hlt ht,
    step_of_drain hrun.1 hrun.2.1 hnot (hmicro.toBoundary hend hlen) hb⟩

/-- Settles O38: the micro-states that the instruction's run enters are those its frames show. -/
theorem microStateSequenceOfEachClass : Obligations.MicroStateSequenceOfEachClass := by
  intro s hready
  obtain ⟨e, hfetch, hfetched⟩ := exists_fetch_run hready
  obtain ⟨t, hwhole, -, hstep⟩ := exists_instruction_run hready hfetch hfetched
  obtain ⟨frames, htimeline, hmap, hcycle⟩ := hwhole.frames
  refine ⟨t, frames, hstep, htimeline, by rw [hcycle, ← hmap, List.length_map], ?_⟩
  rw [hmap, instrPath, executePath]
  split
  case isTrue hhalts => rw [operandPath_of_halting hhalts]; rfl
  case isFalse => cases classOf (s.mem.read s.pc) <;> rfl

end Sys2Proof.Machine
end

section
/-! PROOFS. The statements about the flag unit (41_flag_unit.md R170-R174): the value of each flag after `setZN`,
`add9` and `sub9`, the library's signed overflow behind both overflow formulas, what an Execute does to FLAGS, and
the settled statements. -/

namespace Sys2Proof.Machine

/-! ### The tests that the flag unit makes -/

theorem zeroOf_iff (v : Byte) : zeroOf v = true ↔ v = 0#8 := beq_iff_eq

theorem negativeOf_eq_msb (v : Byte) : negativeOf v = v.msb := v.msb_eq_getLsbD_last.symm

theorem negativeOf_iff (v : Byte) : negativeOf v = true ↔ 0x80 ≤ v.toNat := by
  rw [negativeOf_eq_msb, BitVec.msb_eq_decide, decide_eq_true_iff]

theorem carryOf_iff (s : Word9) : carryOf s = true ↔ 256 ≤ s.toNat := by
  have hmsb : carryOf s = s.msb := s.msb_eq_getLsbD_last.symm
  rw [hmsb, BitVec.msb_eq_decide, decide_eq_true_iff]

/-- The sign comparison in both overflow formulas (R171, R172). -/
theorem xor_and_signBit_eq_zero_iff (v w : Byte) :
    (v ^^^ w) &&& 0x80#8 = 0#8 ↔ negativeOf v = negativeOf w := by
  have hmask : (0x80#8 : Byte) = BitVec.twoPow 8 7 := rfl
  rw [hmask, BitVec.and_twoPow, BitVec.getLsbD_xor, negativeOf, negativeOf]
  cases v.getLsbD 7 <;> cases w.getLsbD 7 <;> decide

theorem addOverflow_iff (a b r : Byte) :
    addOverflow a b r = true ↔ negativeOf a = negativeOf b ∧ negativeOf r ≠ negativeOf a := by
  rw [addOverflow, Bool.and_eq_true, beq_iff_eq, bne_iff_ne, ne_eq, xor_and_signBit_eq_zero_iff,
    xor_and_signBit_eq_zero_iff, ne_comm]

theorem subOverflow_iff (a b r : Byte) :
    subOverflow a b r = true ↔ negativeOf a ≠ negativeOf b ∧ negativeOf r ≠ negativeOf a := by
  rw [subOverflow, Bool.and_eq_true, bne_iff_ne, bne_iff_ne, ne_eq, ne_eq, xor_and_signBit_eq_zero_iff,
    xor_and_signBit_eq_zero_iff, ← ne_eq, ← ne_eq, ne_comm (a := negativeOf r)]

/-! ### The nine-bit computations as byte arithmetic -/

theorem resultOf_sum9 (a b : Byte) : resultOf (sum9 a b) = a + b := by
  apply BitVec.eq_of_toNat_eq
  rw [resultOf_toNat, sum9_toNat, BitVec.toNat_add]

theorem resultOf_diff9 (a b : Byte) : resultOf (diff9 a b) = a - b := by
  apply BitVec.eq_of_toNat_eq
  rw [resultOf_toNat, diff9_toNat, BitVec.toNat_sub]
  have hb := b.isLt
  omega

@[simp] theorem add9_fst (a b f : Byte) : (add9 a b f).1 = a + b := resultOf_sum9 a b

@[simp] theorem sub9_fst (a b f : Byte) : (sub9 a b f).1 = a - b := resultOf_diff9 a b

theorem carryOf_sum9_iff (a b : Byte) : carryOf (sum9 a b) = true ↔ 256 ≤ a.toNat + b.toNat := by
  rw [carryOf_iff, sum9_toNat]

/-- "No borrow" (R172 with 92_eei_decisions.md D14). -/
theorem carryOf_diff9_iff (a b : Byte) : carryOf (diff9 a b) = true ↔ b.toNat ≤ a.toNat := by
  rw [carryOf_iff, diff9_toNat]
  have hb := b.isLt
  omega

/-- ADD's formula (R171) is the library's signed overflow. -/
theorem addOverflow_eq_saddOverflow (a b : Byte) : addOverflow a b (a + b) = a.saddOverflow b := by
  rw [Bool.eq_iff_iff, addOverflow_iff, BitVec.saddOverflow_eq]
  simp [negativeOf_eq_msb]

/-- SUB's formula (R172) is the library's signed overflow. -/
theorem subOverflow_eq_ssubOverflow (a b : Byte) : subOverflow a b (a - b) = a.ssubOverflow b := by
  rw [Bool.eq_iff_iff, subOverflow_iff, BitVec.ssubOverflow_eq]
  simp only [negativeOf_eq_msb]
  cases a.msb <;> cases b.msb <;> simp

theorem addOverflow_iff_toInt (a b : Byte) :
    addOverflow a b (a + b) = true ↔ a.toInt + b.toInt < -128 ∨ 127 < a.toInt + b.toInt := by
  rw [addOverflow_eq_saddOverflow, BitVec.saddOverflow, Bool.or_eq_true, decide_eq_true_iff, decide_eq_true_iff]
  omega

theorem subOverflow_iff_toInt (a b : Byte) :
    subOverflow a b (a - b) = true ↔ a.toInt - b.toInt < -128 ∨ 127 < a.toInt - b.toInt := by
  rw [subOverflow_eq_ssubOverflow, BitVec.ssubOverflow, Bool.or_eq_true, decide_eq_true_iff, decide_eq_true_iff]
  omega

/-! ### The flags after `setZN` -/

/-- The mask of `setZN` names bits 1 and 2 (R174). -/
theorem getLsbD_setZN_of_ne (v f : Byte) {k : Nat} (hz : k ≠ 1) (hn : k ≠ 2) :
    (setZN v f).getLsbD k = f.getLsbD k := by
  have hmask : (0x06#8 : Byte).getLsbD k = false := by
    match k with
    | 0 | 3 | 4 | 5 | 6 | 7 => rfl
    | k + 8 => exact BitVec.getLsbD_of_ge _ _ (by omega)
  rw [setZN, getLsbD_updateFlags, hmask]
  rfl

@[simp] theorem flagZ_setZN (v f : Byte) : flagZ (setZN v f) = zeroOf v := by
  obtain ⟨-, hz, -⟩ := packFlags_bits false (zeroOf v) (negativeOf v) false
  rw [flagZ, setZN, getLsbD_updateFlags, if_pos (by decide)]
  exact hz

@[simp] theorem flagN_setZN (v f : Byte) : flagN (setZN v f) = negativeOf v := by
  obtain ⟨-, -, hn, -⟩ := packFlags_bits false (zeroOf v) (negativeOf v) false
  rw [flagN, setZN, getLsbD_updateFlags, if_pos (by decide)]
  exact hn

@[simp] theorem flagC_setZN (v f : Byte) : flagC (setZN v f) = flagC f :=
  getLsbD_setZN_of_ne v f (by decide) (by decide)

@[simp] theorem flagV_setZN (v f : Byte) : flagV (setZN v f) = flagV f :=
  getLsbD_setZN_of_ne v f (by decide) (by decide)

/-! ### The flags after `add9` and `sub9` -/

theorem add9_flags (a b f : Byte) :
    flagC (add9 a b f).2 = carryOf (sum9 a b) ∧ flagZ (add9 a b f).2 = zeroOf (a + b) ∧
    flagN (add9 a b f).2 = negativeOf (a + b) ∧ flagV (add9 a b f).2 = addOverflow a b (a + b) ∧
    flagsReserved (add9 a b f).2 = flagsReserved f := by
  rw [← resultOf_sum9]
  exact updateFlags_named f _ _ _ _

theorem sub9_flags (a b f : Byte) :
    flagC (sub9 a b f).2 = carryOf (diff9 a b) ∧ flagZ (sub9 a b f).2 = zeroOf (a - b) ∧
    flagN (sub9 a b f).2 = negativeOf (a - b) ∧ flagV (sub9 a b f).2 = subOverflow a b (a - b) ∧
    flagsReserved (sub9 a b f).2 = flagsReserved f := by
  rw [← resultOf_diff9]
  exact updateFlags_named f _ _ _ _

/-! ### Z and N of a result -/

/-- Z and N of FLAGS `f` are those of the result `v` (R170). -/
def DescribesResult (v f : Byte) : Prop := (flagZ f = true ↔ v = 0#8) ∧ (flagN f = true ↔ 0x80 ≤ v.toNat)

theorem DescribesResult.of_flags {v f : Byte} (hz : flagZ f = zeroOf v) (hn : flagN f = negativeOf v) :
    DescribesResult v f :=
  ⟨by rw [hz, zeroOf_iff], by rw [hn, negativeOf_iff]⟩

theorem describesResult_setZN (v f : Byte) : DescribesResult v (setZN v f) :=
  .of_flags (flagZ_setZN v f) (flagN_setZN v f)

theorem describesResult_add9 (a b f : Byte) : DescribesResult (add9 a b f).1 (add9 a b f).2 := by
  obtain ⟨-, hz, hn, -⟩ := add9_flags a b f
  rw [add9_fst]
  exact .of_flags hz hn

theorem describesResult_sub9 (a b f : Byte) : DescribesResult (sub9 a b f).1 (sub9 a b f).2 := by
  obtain ⟨-, hz, hn, -⟩ := sub9_flags a b f
  rw [sub9_fst]
  exact .of_flags hz hn

/-! ### What an Execute does to FLAGS -/

section Exec

variable {i : Instr} {s t : State}

/-- FLAGS after an Execute: kept, written by ADD or SUB, or Z and N of the produced value (R173). -/
theorem exec_flags_cases (h : exec i s = .next t) :
    t.flags = s.flags ∨ i = .addB ∨ i = .subB ∨ ∃ v, t.flags = setZN v s.flags := by
  cases i <;> cases h
  case addB => exact .inr (.inl rfl)
  case subB => exact .inr (.inr (.inl rfl))
  case ldaImm | ldbImm | ldxImm | ldaAbs | ldaIdx | andB | orB | xorB | incA | decA =>
    exact .inr (.inr (.inr ⟨_, rfl⟩))
  all_goals exact .inl rfl

theorem exec_describes_a {imm : Byte} {addr : Addr} (hi : i ∈ [.ldaImm imm, .ldaAbs addr, .ldaIdx addr, .addB,
    .subB, .andB, .orB, .xorB, .incA, .decA]) (h : exec i s = .next t) : DescribesResult t.a t.flags := by
  cases i <;> cases h
  case addB => exact describesResult_add9 s.a s.b s.flags
  case subB => exact describesResult_sub9 s.a s.b s.flags
  case ldaImm | ldaAbs | ldaIdx | andB | orB | xorB | incA | decA => exact describesResult_setZN _ s.flags
  all_goals simp at hi

end Exec

/-! ### The settled statements -/

/-- Settles O5: the mask of `setZN` bit by bit, and the produced value of every data-producing Execute. -/
theorem setZNWritesZeroAndNegativeOnly : Obligations.SetZNWritesZeroAndNegativeOnly := by
  refine ⟨fun v f => ?_, fun imm addr i s t h => ⟨fun hi => exec_describes_a hi h, ?_, ?_⟩⟩
  · obtain ⟨hz, hn⟩ := describesResult_setZN v f
    exact ⟨hz, hn, fun k hk1 hk2 => getLsbD_setZN_of_ne v f hk1 hk2⟩
  · rintro rfl
    cases h
    exact describesResult_setZN imm s.flags
  · rintro rfl
    cases h
    exact describesResult_setZN imm s.flags

/-- Settles O6: each flag is its bit of the packed byte, over the sum as byte arithmetic. -/
theorem addNineComputesSumAndFlags : Obligations.AddNineComputesSumAndFlags := by
  intro a b f
  obtain ⟨hc, hz, hn, hv, hreserved⟩ := add9_flags a b f
  rw [add9_fst]
  refine ⟨BitVec.toNat_add a b, ?_, ?_, hn, ?_, hreserved⟩
  · rw [hc, carryOf_sum9_iff]
  · rw [hz, zeroOf_iff]
  · rw [hv, addOverflow_iff]
    rfl

/-- Settles O7: as O6 over the difference, with both overflow formulas read as the library's signed overflow. -/
theorem subNineAndSignedOverflow : Obligations.SubNineAndSignedOverflow := by
  intro a b f
  obtain ⟨hc, hz, hn, hv, hreserved⟩ := sub9_flags a b f
  obtain ⟨-, -, -, hvAdd, -⟩ := add9_flags a b f
  rw [sub9_fst]
  refine ⟨?_, ?_, ?_, hn, ?_, hreserved, ?_⟩
  · have hb := b.isLt
    rw [BitVec.toNat_sub]
    omega
  · rw [hc, carryOf_diff9_iff]
  · rw [hz, zeroOf_iff]
    exact sub_eq_zero
  · rw [hv, subOverflow_iff_toInt]
  · rw [hvAdd, addOverflow_iff_toInt]

/-- Settles O8: `setZN` keeps C and V, and no instruction of the last clause calls the flag unit. -/
theorem flagsPreservedOutsideTheirWriters : Obligations.FlagsPreservedOutsideTheirWriters := by
  intro i s t h
  refine ⟨exec_flagsReserved h, fun hadd hsub => ?_, ?_⟩
  · rcases exec_flags_cases h with hkept | haddB | hsubB | ⟨v, hsetZN⟩
    · rw [hkept]
      exact ⟨rfl, rfl⟩
    · exact absurd haddB hadd
    · exact absurd hsubB hsub
    · rw [hsetZN]
      exact ⟨flagC_setZN v s.flags, flagV_setZN v s.flags⟩
  · rintro (rfl | rfl | ⟨op, rfl⟩ | ⟨addr, rfl | rfl | rfl | rfl | rfl⟩) <;> cases h <;> rfl

end Sys2Proof.Machine
end

section
/-! PROOFS. The statements about loads and stores (42_load_store.md R190-R196): addresses as operand bytes, the whole
step of an instruction whose bytes stand at PC by what its Execute makes of the registers, what an Execute of a load
or a store leaves, and the settled statements. -/

namespace Sys2Proof

/-! ### Operand bytes -/

/-- The operand bytes of an address, low byte first, are the two it is made of (30_encoding.md R103). -/
theorem addressBytes_append (hi lo : Byte) : [lowByte (hi ++ lo), highByte (hi ++ lo)] = [lo, hi] :=
  congrArg₂ (fun l h => [l, h]) (lowByte_concatBytes hi lo) (highByte_concatBytes hi lo)

theorem encode_ldaAbs_append (hi lo : Byte) : encode (.ldaAbs (hi ++ lo)) = [0x12#8, lo, hi] :=
  congrArg (0x12#8 :: ·) (addressBytes_append hi lo)

theorem encode_staAbs_append (hi lo : Byte) : encode (.staAbs (hi ++ lo)) = [0x13#8, lo, hi] :=
  congrArg (0x13#8 :: ·) (addressBytes_append hi lo)

theorem encode_ldaIdx_append (hi lo : Byte) : encode (.ldaIdx (hi ++ lo)) = [0x34#8, lo, hi] :=
  congrArg (0x34#8 :: ·) (addressBytes_append hi lo)

theorem encode_staIdx_append (hi lo : Byte) : encode (.staIdx (hi ++ lo)) = [0x35#8, lo, hi] :=
  congrArg (0x35#8 :: ·) (addressBytes_append hi lo)

/-- A well-formed instruction is read back from the bytes of its encoding, however they are written. -/
theorem decode_of_encode_eq {i : Instr} {bytes : List Byte} (hwf : i.wf = true) (hencode : encode i = bytes)
    (rest : List Byte) : decode (bytes ++ rest) = .ok (i, rest) :=
  hencode ▸ Machine.decodeOfEncodeIsIdentity i rest hwf

end Sys2Proof

namespace Sys2Proof.Machine

/-- The address of an indexed operand (30_encoding.md R104). -/
theorem indexedAddr_toNat (addr : Addr) (x : Byte) :
    (indexedAddr addr x).toNat = (addr.toNat + x.toNat) % 65536 := by
  rw [indexedAddr, BitVec.toNat_add, BitVec.toNat_setWidth]
  omega

/-! ### The whole step by the Execute effect -/

section Step

variable {i : Instr} {bytes : List Byte} {s e t w : State}

/-- No Execute reads the latches or the trace: after the fetches it answers, the trace apart, what it would have
answered before them with PC already moved. -/
theorem OnlyFetches.exec (h : OnlyFetches s e) (hexec : exec i { s with pc := e.pc } = .next w) :
    ∃ w', Machine.exec i { e with events := [] } = .next w' ∧
      w'.observe = { w.observe with cycle := e.cycle, timeline := e.timeline } := by
  unfold OnlyFetches at h
  rw [h]
  cases i <;> cases hexec <;> exact ⟨_, rfl, rfl⟩

/-- After Execute only the trace moves on, and WriteBack returns to FetchOp (R136, R137). -/
theorem executeToBoundary_observe (hhalted : e.halted = false)
    (hexec : exec (instrOf e.opcode e.operand) { e with events := [] } = .next w)
    (h : executeToBoundary e = .next t) : t.observe =
      { w.observe with
        ustate := if w.halted = true then .halted else .fetchOp, cycle := t.cycle, timeline := t.timeline } := by
  rw [executeToBoundary, hexec, andThen_next] at h
  rcases exec_ends _ _ w hexec with ⟨hkept, hu⟩ | ⟨hhalts, hu⟩
  · have hon : w.halted = false := hkept.trans hhalted
    rw [hon, if_neg Bool.false_ne_true] at h
    obtain ⟨-, ⟨hnot, -⟩ | ⟨-, u, hback, rfl⟩⟩ := stepCycle_next _ t h
    · rw [State.emitFrame_halted, hon] at hnot; cases hnot
    · rw [transition_writeBack (s := { w.emitFrame e.cycle with events := [] }) hu] at hback
      cases hback
      rw [hon, if_neg Bool.false_ne_true]
      rfl
  · rw [hhalts, if_pos rfl] at h
    cases h
    rw [hhalts, if_pos rfl, ← hu]
    rfl

/-- A step from a boundary over an instruction whose bytes stand at PC: the Execute effect with PC past these bytes,
and one cycle for each micro-state of the instruction (R142-R144). -/
theorem step_of_holds (hready : s.ready) (hwf : i.wf = true) (hencode : encode i = bytes) (hholds : s.holds bytes)
    (hexec : exec i { s with pc := s.pc + BitVec.ofNat 16 bytes.length } = .next w) :
    ∃ t, step s = .next t ∧ t.observe =
      { w.observe with
        ustate := if w.halted = true then .halted else .fetchOp, cycle := s.cycle + (instrPath i.opcode).length,
        timeline := t.timeline } := by
  subst hencode
  obtain ⟨hop, hoperands⟩ : s.mem.read s.pc = i.opcode ∧
      s.mem.readBytes (s.pc + 1#16) i.operandBytes.length = i.operandBytes := List.cons.inj hholds
  obtain ⟨e, hfetch, hfetched⟩ := exists_fetch_run hready
  obtain ⟨t, hwhole, hends, hstep⟩ := exists_instruction_run hready hfetch hfetched
  obtain ⟨-, -, -, hcycle⟩ := hwhole.frames
  rw [hop] at hfetched hcycle
  have hlen : i.operandBytes.length = (classOf i.opcode).operandBytes := length_operandBytes i hwf
  have hinstr : instrOf e.opcode e.operand = i := by
    refine hfetched.instrOf_eq (rest := []) hlen.ge ?_
    rw [hoperands, ← List.append_nil (_ :: _)]
    exact decode_of_encode_eq hwf rfl []
  have hpc : e.pc = s.pc + BitVec.ofNat 16 (encode i).length := by
    rw [hfetched.pc, ← hlen, encode, List.length_cons, Nat.add_comm, BitVec.ofNat_add, BitVec.add_assoc]
  obtain ⟨w', hexec', hobserve⟩ := hfetched.kept.exec (hpc ▸ hexec)
  have hhalted : w'.halted = w.halted := congrArg Observation.halted hobserve
  have hrun : e.running := hfetched.kept.running hready.1
  refine ⟨t, hstep, ?_⟩
  rw [executeToBoundary_observe hrun.2.1 (hinstr.symm ▸ hexec') hends, hobserve, hhalted, hcycle]

/-- An instruction that does not halt takes three cycles more than it has bytes, and ends at FetchOp (R144). -/
theorem step_of_holds_running (hready : s.ready) (hwf : i.wf = true) (hencode : encode i = bytes)
    (hholds : s.holds bytes) (hexec : exec i { s with pc := s.pc + BitVec.ofNat 16 bytes.length } = .next w)
    (hkept : w.halted = s.halted) :
    ∃ t, step s = .next t ∧ t.observe =
      { w.observe with ustate := s.ustate, cycle := s.cycle + (bytes.length + 3), timeline := t.timeline } := by
  obtain ⟨t, hstep, hobserve⟩ := step_of_holds hready hwf hencode hholds hexec
  obtain ⟨⟨-, hhalted, -⟩, hu⟩ := hready
  have hon : w.halted = false := hkept.trans hhalted
  have hgoesOn : ¬ haltingOpcode i.opcode := fun hhalts => by
    rw [((exec_ends_by_opcode hwf hexec).1 hhalts).1] at hon
    cases hon
  have hlen : (instrPath i.opcode).length = bytes.length + 3 := by
    rw [instrPath, executePath, if_neg hgoesOn, List.length_append, List.length_cons, length_operandPath,
      ← length_operandBytes i hwf, ← hencode]
    rfl
  refine ⟨t, hstep, ?_⟩
  rw [hobserve, hon, hlen, hu]
  rfl

end Step

/-! ### What a load and a store leave -/

section LoadStore

variable {i : Instr} {imm : Byte} {addr base other : Addr} {s t : State}

/-- An immediate load accesses no memory (42_load_store.md R190-R192). -/
theorem execAccess_of_immediate_load (hi : i = .ldaImm imm ∨ i = .ldbImm imm ∨ i = .ldxImm imm) :
    execAccess i s = [] := by
  rcases hi with rfl | rfl | rfl <;> rfl

/-- Every address but the store's own reads as before (42_load_store.md R194, R196). -/
theorem exec_store_read_other (hi : i = .staAbs addr ∨ (i = .staIdx base ∧ addr = indexedAddr base s.x))
    (h : exec i s = .next t) (hother : other ≠ addr) : t.mem.read other = s.mem.read other := by
  rcases hi with rfl | ⟨rfl, rfl⟩
  · cases h; exact Memory.read_write_other s.mem addr other s.a hother
  · cases h; exact Memory.read_write_other s.mem (indexedAddr base s.x) other s.a hother

theorem exec_store_keeps_registers (hi : i = .staAbs addr ∨ i = .staIdx addr) (h : exec i s = .next t) :
    t.a = s.a ∧ t.b = s.b ∧ t.x = s.x ∧ t.pc = s.pc ∧ t.flags = s.flags ∧ t.halted = s.halted := by
  rcases hi with rfl | rfl
  · cases h; exact ⟨rfl, rfl, rfl, rfl, rfl, rfl⟩
  · cases h; exact ⟨rfl, rfl, rfl, rfl, rfl, rfl⟩

end LoadStore

/-! ### The settled statements -/

/-- Settles O9: the round trip of the encoding, each Execute's equation, and the step over its two bytes. -/
theorem loadImmediateRules : Obligations.LoadImmediateRules := by
  refine ⟨fun imm rest => ⟨?_, ?_, ?_⟩, fun imm s => ⟨rfl, rfl, rfl⟩, fun imm s hready hholds => ?_,
    fun imm s hready hholds => ?_, fun imm s hready hholds => ?_, fun i s t h hx => (exec_x_cases h).resolve_left hx⟩
  · exact decode_of_encode_eq (i := .ldaImm imm) rfl rfl rest
  · exact decode_of_encode_eq (i := .ldbImm imm) rfl rfl rest
  · exact decode_of_encode_eq (i := .ldxImm imm) rfl rfl rest
  · exact step_of_holds_running (i := .ldaImm imm) hready rfl rfl hholds rfl rfl
  · exact step_of_holds_running (i := .ldbImm imm) hready rfl rfl hholds rfl rfl
  · exact step_of_holds_running (i := .ldxImm imm) hready rfl rfl hholds rfl rfl

/-- Settles O10: as O9 over three bytes, the indexed form's address by its value. -/
theorem loadMemoryRules : Obligations.LoadMemoryRules := by
  refine ⟨fun lo hi rest => ⟨?_, ?_⟩, indexedAddr_toNat, fun addr s => ⟨rfl, rfl⟩,
    fun lo hi s hready hholds => ?_, fun lo hi s hready hholds => ?_⟩
  · exact decode_of_encode_eq rfl (encode_ldaAbs_append hi lo) rest
  · exact decode_of_encode_eq rfl (encode_ldaIdx_append hi lo) rest
  · exact step_of_holds_running hready rfl (encode_ldaAbs_append hi lo) hholds rfl rfl
  · exact step_of_holds_running hready rfl (encode_ldaIdx_append hi lo) hholds rfl rfl

/-- Settles O11: as O10, and the memory law of a read after a write for the byte stored. -/
theorem storeRules : Obligations.StoreRules := by
  refine ⟨fun lo hi rest => ⟨?_, ?_⟩, indexedAddr_toNat, fun addr s => ⟨rfl, rfl⟩,
    fun lo hi s hready hholds => ?_, fun lo hi s hready hholds => ?_, fun addr s t u h hmem hpc hready => ?_⟩
  · exact decode_of_encode_eq rfl (encode_staAbs_append hi lo) rest
  · exact decode_of_encode_eq rfl (encode_staIdx_append hi lo) rest
  · obtain ⟨t, hstep, hobserve⟩ :=
      step_of_holds_running hready rfl (encode_staAbs_append hi lo) hholds rfl rfl
    have hmem : t.mem = s.mem.write (hi ++ lo) s.a := congrArg Observation.mem hobserve
    exact ⟨t, hstep, hobserve, by rw [hmem, Memory.read_write_same]⟩
  · obtain ⟨t, hstep, hobserve⟩ :=
      step_of_holds_running hready rfl (encode_staIdx_append hi lo) hholds rfl rfl
    have hmem : t.mem = s.mem.write (indexedAddr (hi ++ lo) s.x) s.a := congrArg Observation.mem hobserve
    exact ⟨t, hstep, hobserve, by rw [hmem, Memory.read_write_same]⟩
  · obtain ⟨hrun, hu⟩ := hready
    obtain ⟨w, hstep, -, hop, -⟩ := exists_fetchOp_step hrun hu
    exact ⟨w, hstep, by rw [hop, hmem, hpc, exec_store_read (base := addr) (.inl rfl) h]⟩

/-- Settles O21: no load is among the named writers of what it must keep. -/
theorem loadFrame : Obligations.LoadFrame := by
  intro imm addr i s t hi h
  obtain ⟨hreserved, hflags, -⟩ := flagsPreservedOutsideTheirWriters i s t h
  obtain ⟨hc, hv⟩ := hflags (by rintro rfl; simp at hi) (by rintro rfl; simp at hi)
  have hmem : t.mem = s.mem := by
    refine (exec_mem_cases h).resolve_right ?_
    rintro ⟨_, ⟨rfl, -⟩ | ⟨rfl, -⟩⟩ <;> simp at hi
  refine ⟨fun hdest => (exec_b_cases h).resolve_right ?_, fun hdest => (exec_x_cases h).resolve_right ?_, ?_,
    fun habs hidx => ?_, (exec_pc_cases h).resolve_right ?_, (exec_halted_cases h).resolve_right ?_,
    exec_sameEngine h, fun a => by rw [hmem], hc, hv, hreserved⟩
  · rintro ⟨imm', rfl⟩
    obtain rfl : imm' = imm := by simpa using hi
    exact hdest rfl
  · rintro ⟨imm', rfl⟩
    obtain rfl : imm' = imm := by simpa using hi
    exact hdest rfl
  · rintro (rfl | rfl) <;> cases h <;> rfl
  · rw [exec_events h, execAccess_of_immediate_load, List.append_nil]
    simpa [habs, hidx] using hi
  · rintro ⟨_, rfl | rfl | rfl⟩ <;> simp at hi
  · rintro (rfl | ⟨_, rfl⟩) <;> simp at hi

/-- Settles O22: the memory law of a write at the form's own address; the rest is no output of a store. -/
theorem storeFrame : Obligations.StoreFrame := by
  refine fun addr s t => ⟨fun h => ?_, fun h => ?_, ?_⟩
  · exact ⟨exec_store_read (base := addr) (.inl rfl) h,
      fun other hother => exec_store_read_other (base := addr) (.inl rfl) h hother⟩
  · exact ⟨exec_store_read (.inr ⟨rfl, rfl⟩) h,
      fun other hother => exec_store_read_other (.inr ⟨rfl, rfl⟩) h hother⟩
  · intro hstore
    obtain ⟨i, hi, h⟩ : ∃ i, (i = .staAbs addr ∨ i = .staIdx addr) ∧ exec i s = .next t := by
      rcases hstore with h | h
      · exact ⟨_, .inl rfl, h⟩
      · exact ⟨_, .inr rfl, h⟩
    obtain ⟨ha, hb, hx, hpc, hflags, hhalted⟩ := exec_store_keeps_registers hi h
    exact ⟨ha, hb, hx, hpc, hflags, hhalted, exec_sameEngine h⟩

end Sys2Proof.Machine
end

section
/-! PROOFS. The statements about control transfer (43_control.md R220-R222, 45_system.md R270-R272): the bytes of an
instruction with an address, the Execute of each jump by its condition, what the jumps, NOP and the halting opcodes
access and write to FLAGS, and the settled statements. -/

namespace Sys2Proof

/-- An instruction with an address operand: opcode, low byte, high byte (30_encoding.md R103, R104). -/
theorem encode_of_addressBytes {i : Instr} {hi lo : Byte}
    (h : i.operandBytes = [lowByte (hi ++ lo), highByte (hi ++ lo)]) : encode i = [i.opcode, lo, hi] :=
  congrArg (i.opcode :: ·) (h.trans (addressBytes_append hi lo))

end Sys2Proof

namespace Sys2Proof.Machine

/-! ### The Execute of a jump -/

section Jump

variable (addr : Addr) (s : State)

theorem exec_jmpAbs : exec (.jmpAbs addr) s = .next { s with pc := addr, ustate := .writeBack } := rfl

theorem exec_jzAbs : exec (.jzAbs addr) s =
    .next { s with pc := if s.flags.getLsbD 1 = true then addr else s.pc, ustate := .writeBack } := rfl

/-- JNZ's condition is the negation of Z (R222). -/
theorem exec_jnzAbs : exec (.jnzAbs addr) s =
    .next { s with pc := if s.flags.getLsbD 1 = false then addr else s.pc, ustate := .writeBack } := by
  have hpc : (s.jumpIf (!flagZ s.flags) addr).pc = if s.flags.getLsbD 1 = false then addr else s.pc := by
    simp only [State.jumpIf_pc, flagZ, Bool.not_eq_true']
  rw [← hpc]
  rfl

end Jump

/-! ### What the jumps, NOP and the halting opcodes leave -/

section Control

variable {i : Instr} {addr : Addr} {op : Byte} {s t : State}

/-- None of them accesses memory in its Execute. -/
theorem execAccess_of_control (hi : i ∈ [.jmpAbs addr, .jzAbs addr, .jnzAbs addr, .nop, .hlt, .undef op]) :
    execAccess i s = [] := by
  cases i
  case ldaAbs | ldaIdx | staAbs | staIdx => simp at hi
  all_goals rfl

theorem exec_control_keeps_flags (hi : i ∈ [.jmpAbs addr, .jzAbs addr, .jnzAbs addr, .nop, .hlt, .undef op])
    (h : exec i s = .next t) : t.flags = s.flags := by
  obtain ⟨-, -, hkept⟩ := flagsPreservedOutsideTheirWriters i s t h
  refine hkept ?_
  simp only [List.mem_cons, List.not_mem_nil, or_false] at hi
  rcases hi with rfl | rfl | rfl | rfl | rfl | rfl <;> simp

end Control

/-! ### The settled statements -/

/-- Settles O16: the round trip of the encoding, each Execute's equation, and the step over its three bytes. -/
theorem jumpRules : Obligations.JumpRules := by
  refine ⟨fun lo hi rest => ⟨?_, ?_, ?_⟩,
    fun addr s => ⟨exec_jmpAbs addr s, exec_jzAbs addr s, exec_jnzAbs addr s⟩,
    fun lo hi s hready hholds => ?_, fun lo hi s hready hholds => ?_, fun lo hi s hready hholds => ?_⟩
  · exact decode_of_encode_eq (i := .jmpAbs (hi ++ lo)) rfl (encode_of_addressBytes rfl) rest
  · exact decode_of_encode_eq (i := .jzAbs (hi ++ lo)) rfl (encode_of_addressBytes rfl) rest
  · exact decode_of_encode_eq (i := .jnzAbs (hi ++ lo)) rfl (encode_of_addressBytes rfl) rest
  · exact step_of_holds_running hready rfl (encode_of_addressBytes rfl) hholds (exec_jmpAbs (hi ++ lo) _) rfl
  · exact step_of_holds_running hready rfl (encode_of_addressBytes rfl) hholds (exec_jzAbs (hi ++ lo) _) rfl
  · exact step_of_holds_running hready rfl (encode_of_addressBytes rfl) hholds (exec_jnzAbs (hi ++ lo) _) rfl

/-- Settles O23: none of these is among the named writers of what it must keep. -/
theorem controlAndSystemFrame : Obligations.ControlAndSystemFrame := by
  intro addr op i s t hi h
  have hmem : t.mem = s.mem := by
    refine (exec_mem_cases h).resolve_right ?_
    rintro ⟨_, ⟨rfl, -⟩ | ⟨rfl, -⟩⟩ <;> simp at hi
  have hevents : t.events = s.events := by
    rw [exec_events h, execAccess_of_control hi, List.append_nil]
  refine ⟨(exec_a_cases h).resolve_right ?_, (exec_b_cases h).resolve_right ?_,
    (exec_x_cases h).resolve_right ?_, exec_control_keeps_flags hi h, hevents, exec_sameEngine h,
    fun a => by rw [hmem], fun hstays => (exec_pc_cases h).resolve_right ?_,
    fun hruns => (exec_halted_cases h).resolve_right ?_⟩
  · rintro (⟨_, rfl⟩ | ⟨_, rfl | rfl⟩ | halu)
    · simp at hi
    · simp at hi
    · simp at hi
    · simp only [List.mem_cons, List.not_mem_nil, or_false] at halu
      rcases halu with rfl | rfl | rfl | rfl | rfl | rfl | rfl <;> simp at hi
  · rintro ⟨_, rfl⟩; simp at hi
  · rintro ⟨_, rfl⟩; simp at hi
  · rintro ⟨_, rfl | rfl | rfl⟩ <;> simp at hstays
  · rintro (rfl | ⟨op', rfl⟩)
    · simp at hruns
    · obtain rfl : op' = op := by simpa using hi
      simp at hruns

end Sys2Proof.Machine
end

section
/-! PROOFS. The statements about arithmetic and logic (44_alu.md R240-R246): the Execute of ADD and SUB as byte
arithmetic, DEC's result modulo 256, the one form of an ALU instruction's effect, and the settled statements. -/

namespace Sys2Proof.Machine

/-- DEC's result wraps from 0x00 to 0xFF (R246). -/
theorem toNat_decrement (a : Byte) : ((a - 1#8).toNat : Int) = ((a.toNat : Int) - 1) % 256 := by
  rw [BitVec.toNat_sub, BitVec.toNat_ofNat]
  omega

/-! ### The Execute of an ALU instruction -/

section Alu

variable {i : Instr} {s t : State}

theorem exec_addB : exec .addB s =
    .next { s with a := s.a + s.b, flags := (add9 s.a s.b s.flags).2, ustate := .writeBack } := by
  rw [← add9_fst s.a s.b s.flags]
  rfl

theorem exec_subB : exec .subB s =
    .next { s with a := s.a - s.b, flags := (sub9 s.a s.b s.flags).2, ustate := .writeBack } := by
  rw [← sub9_fst s.a s.b s.flags]
  rfl

/-- An ALU instruction computes a value for A and one for FLAGS, and goes to WriteBack (R240-R246). -/
theorem exec_alu_effect (hi : i ∈ [.addB, .subB, .andB, .orB, .xorB, .incA, .decA]) (h : exec i s = .next t) :
    ∃ v f, t = { s with a := v, flags := f, ustate := .writeBack } := by
  cases i <;> cases h
  case addB | subB | andB | orB | xorB | incA | decA => exact ⟨_, _, rfl⟩
  all_goals simp at hi

end Alu

/-! ### The settled statements -/

/-- Settles O12: the round trip of the encoding, ADD's Execute, and the step over its one byte by A's value. -/
theorem addRule : Obligations.AddRule := by
  refine ⟨fun rest => ?_, fun s => rfl, fun s hready hholds => ?_⟩
  · exact decode_of_encode_eq (i := .addB) rfl rfl rest
  · exact step_of_holds_running (i := .addB) hready rfl rfl hholds exec_addB rfl

/-- Settles O13: as O12, with the difference. -/
theorem subRule : Obligations.SubRule := by
  refine ⟨fun rest => ?_, fun s => rfl, fun s hready hholds => ?_⟩
  · exact decode_of_encode_eq (i := .subB) rfl rfl rest
  · exact step_of_holds_running (i := .subB) hready rfl rfl hholds exec_subB rfl

/-- Settles O14: the round trip of the encoding, each Execute's equation, and the step over its one byte. -/
theorem logicRules : Obligations.LogicRules := by
  refine ⟨fun rest => ⟨?_, ?_, ?_⟩, fun s => ⟨rfl, rfl, rfl⟩, fun s hready hholds => ?_,
    fun s hready hholds => ?_, fun s hready hholds => ?_⟩
  · exact decode_of_encode_eq (i := .andB) rfl rfl rest
  · exact decode_of_encode_eq (i := .orB) rfl rfl rest
  · exact decode_of_encode_eq (i := .xorB) rfl rfl rest
  · exact step_of_holds_running (i := .andB) hready rfl rfl hholds rfl rfl
  · exact step_of_holds_running (i := .orB) hready rfl rfl hholds rfl rfl
  · exact step_of_holds_running (i := .xorB) hready rfl rfl hholds rfl rfl

/-- Settles O15: as O14, with each result modulo 256 and `setZN` keeping C and V on every operand. -/
theorem incrementDecrementRules : Obligations.IncrementDecrementRules := by
  refine ⟨fun rest => ⟨?_, ?_⟩, fun s => ?_, fun s hready hholds => ?_, fun s hready hholds => ?_⟩
  · exact decode_of_encode_eq (i := .incA) rfl rfl rest
  · exact decode_of_encode_eq (i := .decA) rfl rfl rest
  · exact ⟨_, _, rfl, rfl, rfl, rfl, BitVec.toNat_add s.a 1#8, toNat_decrement s.a, flagC_setZN _ _, flagV_setZN _ _,
      flagC_setZN _ _, flagV_setZN _ _⟩
  · exact step_of_holds_running (i := .incA) hready rfl rfl hholds rfl rfl
  · exact step_of_holds_running (i := .decA) hready rfl rfl hholds rfl rfl

/-- Settles O20: only A, FLAGS and the micro-state are written, and FLAGS as O8 says of every instruction. -/
theorem aluFrame : Obligations.AluFrame := by
  intro i s t hi h
  obtain ⟨hreserved, hflags, -⟩ := flagsPreservedOutsideTheirWriters i s t h
  have hcv : i ∉ [.addB, .subB] → flagC t.flags = flagC s.flags ∧ flagV t.flags = flagV s.flags := fun hnot =>
    hflags (by rintro rfl; simp at hnot) (by rintro rfl; simp at hnot)
  obtain ⟨v, f, rfl⟩ := exec_alu_effect hi h
  exact ⟨rfl, rfl, rfl, rfl, rfl, exec_sameEngine h, fun _ => rfl, hreserved, hcv⟩

end Sys2Proof.Machine
end

section
/-! PROOFS. The statements about NOP and the opcodes that halt (45_system.md R270-R272): the frame that ends a step,
the opcode latch and the number of frames after it, the whole step over an opcode that halts, and the settled
statements. -/

namespace Sys2Proof.Machine

/-! ### The trace and the opcode latch after a step -/

/-- The last frame of the timeline is a snapshot of the state (40_microengine.md R139). -/
def State.lastFrameShows (s : State) : Prop := ∃ c, s.timeline.getLast? = some (s.frame c)

theorem State.lastFrameShows_emitFrame (s : State) (c : Nat) : (s.emitFrame c).lastFrameShows :=
  ⟨c, List.getLast?_concat⟩

section Trace

variable {s t : State} {n : Nat}

/-- A step leaves everything as it was, or its last frame shows the state in which it ends. -/
theorem step_lastFrameShows (h : step s = .next t) : t = s ∨ t.lastFrameShows := by
  refine step_keeps (fun u => u = s ∨ u.lastFrameShows) (fun u v hu hstep => ?_) s t (.inl rfl) h
  rcases stepCycle_effect hstep with rfl | ⟨-, w, -, rfl⟩
  · exact hu
  · exact .inr (w.lastFrameShows_emitFrame u.cycle)

/-- A step that counted cycles ends with a frame of the state it leaves (R139, R140). -/
theorem step_lastFrameShows_of_cycle_ne (h : step s = .next t) (hcycle : t.cycle ≠ s.cycle) : t.lastFrameShows :=
  (step_lastFrameShows h).resolve_left fun hsame => hcycle (congrArg State.cycle hsame)

/-- A step appends as many frames as it counts cycles (R140, 10_state.md R47). -/
theorem step_timeline_length (h : step s = .next t) (hcycle : t.cycle = s.cycle + n) :
    t.timeline.length = s.timeline.length + n := by
  obtain ⟨frames, htimeline, hgrown⟩ := timelineIsAppendOnly s t h
  rw [htimeline, List.length_append]
  omega

/-- Only FetchOp writes the opcode latch (R132). -/
theorem transition_opcode_kept (hu : s.ustate ≠ .fetchOp) (h : transition s = .next t) : t.opcode = s.opcode := by
  rcases transition_next s t h with ⟨hfetch, -⟩ | ⟨-, rfl⟩ | ⟨-, rfl⟩ | ⟨-, rfl⟩ | ⟨-, hexec⟩ | ⟨-, rfl⟩
  case inl => exact absurd hfetch hu
  case inr.inr.inr.inr.inl =>
    obtain ⟨-, hop, -⟩ := exec_sameEngine hexec
    exact hop
  all_goals rfl

theorem stepCycle_opcode_kept (hu : s.ustate ≠ .fetchOp) (h : stepCycle s = .next t) : t.opcode = s.opcode := by
  obtain ⟨-, ⟨-, rfl⟩ | ⟨-, w, hw, rfl⟩⟩ := stepCycle_next s t h
  · rfl
  · exact transition_opcode_kept (s := { s with events := [] }) (t := w) hu hw

theorem executeToBoundary_opcode_kept (h : executeToBoundary s = .next t) : t.opcode = s.opcode := by
  obtain ⟨w, hexec, hends⟩ := (andThen_eq_next _ _ _).1 h
  obtain ⟨-, hop, -⟩ := exec_sameEngine hexec
  have hu : w.ustate ≠ .fetchOp := by
    rcases exec_ends _ _ w hexec with ⟨-, hu⟩ | ⟨-, hu⟩ <;> rw [hu] <;> decide
  split at hends
  · cases hends
    exact hop
  · exact (stepCycle_opcode_kept (s := w.emitFrame s.cycle) hu hends).trans hop

/-- A step from a boundary leaves in the opcode latch the byte that stood at PC (R132, 10_state.md R40). -/
theorem step_opcode (hready : s.ready) (h : step s = .next t) : t.opcode = s.mem.read s.pc := by
  obtain ⟨e, hfetch, hfetched⟩ := exists_fetch_run hready
  obtain ⟨t', -, hends, hstep⟩ := exists_instruction_run hready hfetch hfetched
  obtain rfl : t' = t := Host.Outcome.next.inj (hstep.symm.trans h)
  exact (executeToBoundary_opcode_kept hends).trans hfetched.opcode

end Trace

/-! ### The step over an opcode that halts -/

section Halting

variable {op : Byte} {s t : State}

theorem length_instrPath_of_halting (h : haltingOpcode op) : (instrPath op).length = 3 := by
  rw [instrPath, executePath, operandPath_of_halting h, if_pos h]
  rfl

/-- An opcode that halts is an instruction of one byte, whose Execute halts and does nothing else (R271, R272). -/
theorem exists_instr_of_halting (h : haltingOpcode op) : ∃ i : Instr, i.wf = true ∧ i.opcode = op ∧
    encode i = [op] ∧ ∀ s : State, exec i s = .next { s with halted := true, ustate := .halted } := by
  rcases h with rfl | hundef
  · exact ⟨.hlt, rfl, rfl, rfl, fun _ => rfl⟩
  · exact ⟨.undef op, hundef, rfl, rfl, fun _ => rfl⟩

/-- HLT and the undefined opcodes by one rule: three cycles, PC past the byte, and the core halted (R144, R271). -/
theorem step_of_holds_halting (hready : s.ready) (hop : haltingOpcode op) (hholds : s.holds [op]) :
    ∃ t, step s = .next t ∧ t.observe =
      { s.observe with
        pc := s.pc + 1#16, halted := true, ustate := .halted, cycle := s.cycle + 3, timeline := t.timeline } := by
  obtain ⟨i, hwf, hopcode, hencode, hexec⟩ := exists_instr_of_halting hop
  obtain ⟨t, hstep, hobserve⟩ := step_of_holds hready hwf hencode hholds (hexec _)
  rw [hopcode, length_instrPath_of_halting hop] at hobserve
  exact ⟨t, hstep, hobserve⟩

end Halting

/-! ### The settled statements -/

/-- Settles O17: the round trip of the encoding, NOP's Execute, and the step over its one byte. -/
theorem nopRule : Obligations.NopRule := by
  refine ⟨fun rest => ?_, fun s => rfl, fun s hready hholds => ?_⟩
  · exact decode_of_encode_eq (i := .nop) rfl rfl rest
  · obtain ⟨t, hstep, hobserve⟩ := step_of_holds_running (i := .nop) hready rfl rfl hholds rfl rfl
    have hcycle : t.cycle = s.cycle + 4 := congrArg Observation.cycle hobserve
    exact ⟨t, hstep, hobserve, step_timeline_length hstep hcycle⟩

/-- Settles O18: as O17, by the rule of the opcodes that halt; no step moves the halted core it leaves. -/
theorem hltRule : Obligations.HltRule := by
  refine ⟨fun rest => ?_, fun s => rfl, fun s hready hholds => ?_⟩
  · exact decode_of_encode_eq (i := .hlt) rfl rfl rest
  · obtain ⟨t, hstep, hobserve⟩ := step_of_holds_halting hready (.inl rfl) hholds
    have hcycle : t.cycle = s.cycle + 3 := congrArg Observation.cycle hobserve
    have hhalted : t.halted = true := congrArg Observation.halted hobserve
    have hu : t.ustate = .halted := congrArg Observation.ustate hobserve
    have hreset : t.resetDone = true :=
      step_keeps (·.resetDone = true) stepCycle_keeps_resetDone s t hready.1.1 hstep
    obtain ⟨c, hlast⟩ := step_lastFrameShows_of_cycle_ne hstep (by omega)
    exact ⟨t, hstep, hobserve, step_timeline_length hstep hcycle, by rw [hlast, Option.map_some, State.frame, hu],
      stepCycle_halted hreset hhalted, step_halted hreset hhalted⟩

/-- Settles O19: as O18, with the byte at PC in the opcode latch, which the last frame shows. -/
theorem undefinedOpcodeRule : Obligations.UndefinedOpcodeRule := by
  refine ⟨fun op rest hundef => ?_, fun op s => rfl, fun op s hundef hready hholds => ?_⟩
  · exact decode_of_encode_eq (i := .undef op) hundef rfl rest
  · obtain ⟨t, hstep, hobserve⟩ := step_of_holds_halting hready (.inr hundef) hholds
    have hcycle : t.cycle = s.cycle + 3 := congrArg Observation.cycle hobserve
    have hread : s.mem.read s.pc = op := List.head_eq_of_cons_eq hholds
    have hop : t.opcode = op := (step_opcode hready hstep).trans hread
    obtain ⟨c, hlast⟩ := step_lastFrameShows_of_cycle_ne hstep (by omega)
    exact ⟨t, hstep, hobserve, hop, by rw [hlast, Option.map_some, State.frame, hop]⟩

end Sys2Proof.Machine
end

section
/-! PROOFS. The statement about the halted core (60_exceptions.md R305, R311): every request but a reset is served by
it and moves nothing but memory, so every schedule of such requests does. -/

namespace Sys2Proof.Machine

/-! ### Requests to a halted core -/

section Halted

variable {s : State}

/-- Each of the two stepping requests, the only ones that can stop, finds nothing to do (R130, R143). -/
theorem serve_completes_of_halted (hreset : s.resetDone = true) (hhalted : s.halted = true) (q : Request) :
    ∃ t r, serve q s = .next (t, r) := by
  cases q with
  | stepCycle => exact ⟨s, .none, (silently_eq_next _ s .none).2 ⟨stepCycle_halted hreset hhalted, rfl⟩⟩
  | stepInstr => exact ⟨s, .none, (silently_eq_next _ s .none).2 ⟨step_halted hreset hhalted, rfl⟩⟩
  | reset | loadProgram | write16 | poke | observe => exact ⟨_, _, rfl⟩

theorem serve_of_halted (hreset : s.resetDone = true) (hhalted : s.halted = true) {q : Request}
    (hq : ∀ pc, q ≠ .reset pc) : ∃ m r, serve q s = .next ({ s with mem := m }, r) := by
  obtain ⟨t, r, hserve⟩ := serve_completes_of_halted hreset hhalted q
  rw [hserve]
  rcases serve_next q s t r hserve with ⟨pc, hpc, -⟩ | ⟨-, hcycle⟩ | ⟨-, hstep⟩ | ⟨m, rfl⟩
  · exact absurd hpc (hq pc)
  · cases (stepCycle_halted hreset hhalted).symm.trans hcycle
    exact ⟨s.mem, r, rfl⟩
  · cases (step_halted hreset hhalted).symm.trans hstep
    exact ⟨s.mem, r, rfl⟩
  · exact ⟨m, r, rfl⟩

/-- The core that a request leaves is again halted, and meets the next request as the first did. -/
theorem serveAll_of_halted (hreset : s.resetDone = true) (hhalted : s.halted = true) {qs : List Request}
    (hqs : ∀ pc, .reset pc ∉ qs) : ∃ m, serveAll qs s = .next { s with mem := m } := by
  induction qs generalizing s with
  | nil => exact ⟨s.mem, rfl⟩
  | cons q qs ih =>
    have hq : ∀ pc, q ≠ .reset pc := fun pc hpc => hqs pc (hpc ▸ List.mem_cons_self)
    have htail : ∀ pc, .reset pc ∉ qs := fun pc hmem => hqs pc (List.mem_cons_of_mem q hmem)
    obtain ⟨m, r, hserve⟩ := serve_of_halted hreset hhalted hq
    obtain ⟨m', hall⟩ := ih (s := { s with mem := m }) hreset hhalted htail
    exact ⟨m', (serveAll_cons_eq_next q qs s _).2 ⟨_, r, hserve, hall⟩⟩

end Halted

/-! ### The settled statements -/

/-- Settles O48, by induction on the schedule. -/
theorem onlyResetWakesAHaltedCore : Obligations.OnlyResetWakesAHaltedCore := by
  intro qs s hreset hhalted hqs
  obtain ⟨m, hall⟩ := serveAll_of_halted hreset hhalted hqs
  exact ⟨_, hall, rfl⟩

end Sys2Proof.Machine
end

section
/-! PROOFS. The statement about reset (70_reset_and_hazards.md R330, R332, R333): memory is all that a reset state
keeps of the state before, so nothing else of that state is seen after it, and a load commutes with it. -/

namespace Sys2Proof.Machine

/-! ### What a reset keeps -/

/-- Of the state before, a reset sees the memory alone (R330, R332). -/
theorem State.resetAt_eq_of_mem_eq {s t : State} (hmem : s.mem = t.mem) (pc : Addr) :
    s.resetAt pc = t.resetAt pc := by
  rw [State.resetAt, State.resetAt, hmem]

/-- A load goes the same on either side of a reset, whether it is accepted or rejected (R333). -/
theorem State.loadProgram_resetAt (s : State) (pc origin : Addr) (bytes : List Byte) :
    ((s.resetAt pc).loadProgram bytes origin).2 = (s.loadProgram bytes origin).2.resetAt pc := by
  rcases le_or_gt (origin.toNat + bytes.length) 65536 with hfits | hpasses
  · rw [State.loadProgram_of_le hfits, State.loadProgram_of_le hfits]
    rfl
  · rw [State.loadProgram_of_gt hpasses, State.loadProgram_of_gt hpasses]

/-! ### Reset in a schedule -/

theorem serveAll_reset_cons (pc : Addr) (qs : List Request) (s : State) :
    serveAll (.reset pc :: qs) s = serveAll qs (s.resetAt pc) := rfl

theorem serveAll_loadProgram_cons (bytes : List Byte) (origin : Addr) (qs : List Request) (s : State) :
    serveAll (.loadProgram bytes origin :: qs) s = serveAll qs (s.loadProgram bytes origin).2 := rfl

/-! ### The settled statement -/

/-- Settles O45: the fields of the reset state, the one thing it keeps, and its exchange with a load. -/
theorem resetSetsEverythingButMemory : Obligations.ResetSetsEverythingButMemory := by
  refine ⟨fun s pc => ⟨s.resetAt pc, rfl, ?_⟩, fun init u v pc qs => ?_, fun s pc origin bytes => ?_⟩
  · simp [Config.spReset]
  · have hmem : (State.powerOn init u).mem = (State.powerOn init v).mem := rfl
    rw [serveAll_reset_cons, serveAll_reset_cons, State.resetAt_eq_of_mem_eq hmem]
  · rw [serveAll_reset_cons, serveAll_loadProgram_cons, serveAll_loadProgram_cons, serveAll_reset_cons,
      State.loadProgram_resetAt]

end Sys2Proof.Machine
end
